-- ==== Sys2Proof/Word.lean ====
section
/-!
DEFINITION. The word types of the block: bytes, 32-bit host words, W-bit (256-bit) register values, 4-bit register
indices (00_scope.md R10, R13, R14; 30_encoding.md R141).
-/

namespace Sys2Proof

/-- One byte of a byte string or of BUF (R15). -/
abbrev Byte := BitVec 8

/-- A byte string (R15). -/
abbrev Bytes := List Byte

/-- One word of the host port, or one command word (R102, R140). -/
abbrev Word32 := BitVec 32

/-- A W-bit value, W = 256 (R10). -/
abbrev W256 := BitVec 256

/-- A 4-bit register index, naming one of 16 R or Q registers (R141). -/
abbrev RegIdx := Fin 16

/-- A host word offset: offset bits 15:2, so that a misaligned access cannot be expressed (R103). -/
abbrev WordOff := BitVec 14

/-- A W-bit register value made from an integer; every integer the rules store is below 2^256 (R13). -/
abbrev toW (n : Nat) : W256 := BitVec.ofNat 256 n

end Sys2Proof
end

