-- ==== Sys2Proof/Config.lean ====
section
/-!
DEFINITION. What an implementation fixes: the hardwired constants (00_scope.md R10-R12), the parameters of R10, and the
free values, which are constants with no body so that no proof can see what they are.
-/

namespace Sys2Proof

/-- `SIGHASH_POLICY` (R10, D38): what OP_CHECKSIG does with a sighash marker other than 0x01. -/
inductive SighashPolicy where
  | require01
  | ignoreMarker
  deriving DecidableEq, Repr

/-- `NONCE_FN` (R10, D28): the default RFC 6979 construction, or any other pure function of (KSEC, z mod N). -/
inductive NonceFn where
  | rfc6979
  | other
  deriving DecidableEq, Repr

/-- The parameters a model takes as arguments (R10). DESIGN CHOICE (log entries 9, 10), safe: they stand in State as
plain data that no step changes, so that a statement about every state is a statement for every parameter. -/
structure Params where
  sighash : SighashPolicy
  nonce : NonceFn
  deriving DecidableEq, Repr

namespace Config

/-- The field prime P = 2^256 - 2^32 - 977 (R11). -/
def P : Nat := 2 ^ 256 - 2 ^ 32 - 977

/-- The group order N (R12). UNVERIFIED (log entry 12), unsafe: the spec supplies the digits from general knowledge. -/
def N : Nat := 0xFFFFFFFFFFFFFFFFFFFFFFFFFFFFFFFEBAAEDCE6AF48A03BBFD25E8CD0364141

/-- The generator's x coordinate (R12). UNVERIFIED (log entry 12), unsafe. -/
def Gx : Nat := 0x79BE667EF9DCBBAC55A06295CE870B07029BFCDB2DCE28D959F2815B16F81798

/-- The generator's y coordinate (R12). UNVERIFIED (log entry 12), unsafe. -/
def Gy : Nat := 0x483ADA7726A3C4655DA4FBFC0E1108A8FD17B448A68554199C47D08FFB10D4B8

/-- `BUF_SIZE` (R10). -/
def bufSize : Nat := 4096

/-- `STACK_DEPTH` (R10, R410): a capacity that is never reached; no rule tests it. -/
def stackDepth : Nat := 2 * bufSize

/-- `ELEM_MAX` (R10, R412). -/
def elemMax : Nat := 75

/-- `ID_VALUE` (R10, R60). -/
def idValue : Word32 := 0x52430007

/-- The stated defaults of the parameters (R10). -/
def defaultParams : Params := { sighash := .require01, nonce := .rfc6979 }

/-- How many nonce generators there are: K and V are 32-byte strings (R310). After so many turns the loop of R303 has met
every generator it will ever meet, so this bound is no iteration cap (R313; log entry 8). -/
def nonceStates : Nat := 256 ^ 64

/-- The byte that BUF holds at an address after the power-on number `draw`, until something writes it: a free value
(R101, R601). DESIGN CHOICE (log entry 1), safe. -/
opaque powerOnByte (draw addr : Nat) : Byte

/-- `CORE_BASE`, the platform's base address of the block: open, and no rule depends on it (R10, R114, D61). A free
value, safe (log entry 11). -/
opaque coreBase : Nat

/-- The platform address of a host offset: every offset of the spec is relative to `CORE_BASE` (R114). -/
def platformAddress (off : WordOff) : Nat := coreBase + 4 * off.toNat

/-- The nonce of the signature for the secret e and z mod N, where the default construction does not decide it: the first
accepted candidate of another `NONCE_FN` (R10, D28; log entry 9), and of a default construction that has no accepted
candidate at all (R313; log entry 8). A free value, safe. -/
opaque freeNonce (nonce : NonceFn) (e zModN : Nat) : Nat

/-- The r and s halves, before they are put into their limits, where no nonce whatever is accepted: N divides the secret,
which no loaded key has (R301; log entry 16). A free value, safe. -/
opaque noSignature (nonce : NonceFn) (e zModN : Nat) : Nat × Nat

end Config

end Sys2Proof
end

