-- ==== Sys2Proof/Syntax.lean ====
section
/-!
DEFINITION. The instruction set: one constructor per mnemonic of spec/opcode_table.json, the 29 commands
(30_encoding.md R146) and the six script commands (R160-R162). Field names are those of R141.
-/

namespace Sys2Proof

/-- A field selected by MODE (R144, R201) or named by a register's tag (10_state.md R31): FP, FN or FU. -/
inductive FieldSel where
  | p
  | n
  | user
  deriving DecidableEq, Repr

/-- A curve selected by MODE (R144, R250) or named by a point's curve tag (10_state.md R40). -/
inductive CurveSel where
  | secp
  | user
  deriving DecidableEq, Repr

/-- The SEC form selected by MODE (R144, R351). -/
inductive SecForm where
  | compressed
  | uncompressed
  deriving DecidableEq, Repr

/-- The five script opcodes (44_script.md R400). -/
inductive ScriptOp where
  | dup
  | equal
  | equalverify
  | hash160
  | checksig
  deriving DecidableEq, Repr

/-- One command of a parsed script: `Op(o)` or `Push(d)` (44_script.md R400). -/
inductive ScriptCmd where
  | op (o : ScriptOp)
  | push (d : Bytes)
  deriving DecidableEq, Repr

/-- The instructions. Whether an index names an R or a Q register is fixed by the command (R146). -/
inductive Instr where
  | nop
  | rmov (rd ra : RegIdx)
  | qmov (rd ra : RegIdx)
  | rclr (rd : RegIdx)
  | qclr (rd : RegIdx)
  | mset (ra : RegIdx)
  | fnew (rd ra : RegIdx) (mode : FieldSel)
  | fred (rd ra : RegIdx) (mode : FieldSel)
  | fadd (rd ra rb : RegIdx)
  | fsub (rd ra rb : RegIdx)
  | fmul (rd ra rb : RegIdx)
  | fdiv (rd ra rb : RegIdx)
  | finv (rd ra : RegIdx)
  | fpow (rd ra rb : RegIdx)
  | cset (ra rb : RegIdx)
  | pnew (rd ra rb : RegIdx) (mode : CurveSel)
  | pinf (rd : RegIdx) (mode : CurveSel)
  | padd (rd ra rb : RegIdx)
  | pdbl (rd ra : RegIdx)
  | pmul (rd ra rb : RegIdx)
  | kload (rd ra : RegIdx)
  | sign (rd ra rb : RegIdx)
  | verify (rd ra rb rc re : RegIdx)
  | secenc (rd ra rb : RegIdx) (mode : SecForm)
  | secdec (rd ra rb : RegIdx)
  | derenc (rd ra rb rc : RegIdx)
  | derdec (rd ra rb rc : RegIdx)
  | sparse (rd ra rb : RegIdx)
  | seval (rd ra rb rc re rz : RegIdx)
  | push (d : Bytes)
  | opDup
  | opEqual
  | opEqualverify
  | opHash160
  | opChecksig
  deriving DecidableEq, Repr

/-- The instruction that a command of a parsed script is. -/
def ScriptCmd.toInstr : ScriptCmd → Instr
  | .op .dup => .opDup
  | .op .equal => .opEqual
  | .op .equalverify => .opEqualverify
  | .op .hash160 => .opHash160
  | .op .checksig => .opChecksig
  | .push d => .push d

end Sys2Proof
end

