-- ==== Sys2Proof/WellFormed.lean ====
section
/-!
DEFINITION. Which instructions have an encoding: the checks the types do not make already (30_encoding.md R147 items 4
and 5, R161).
-/

namespace Sys2Proof

/-- A push carries 1 to 75 bytes (R161, 44_script.md R400). -/
def ScriptCmd.wellFormed : ScriptCmd → Bool
  | .op _ => true
  | .push d => decide (1 ≤ d.length ∧ d.length ≤ Config.elemMax)

/-- The instruction has an encoding: SIGN's destinations differ, DERDEC's destinations differ (R147), a push carries
1 to 75 bytes (R161). Every other constructor's operands are all legal. -/
def Instr.wellFormed : Instr → Bool
  | .sign rd _ rb => decide (rd ≠ rb)
  | .derdec rd _ _ rc => decide (rd ≠ rc)
  | .push d => ScriptCmd.wellFormed (.push d)
  | .nop | .rmov .. | .qmov .. | .rclr .. | .qclr .. => true
  | .mset .. | .fnew .. | .fred .. | .fadd .. | .fsub .. | .fmul .. | .fdiv .. | .finv .. | .fpow .. => true
  | .cset .. | .pnew .. | .pinf .. | .padd .. | .pdbl .. | .pmul .. => true
  | .kload .. | .verify .. | .secenc .. | .secdec .. | .derenc .. | .sparse .. | .seval .. => true
  | .opDup | .opEqual | .opEqualverify | .opHash160 | .opChecksig => true

end Sys2Proof
end

