-- ==== Sys2Proof/Decode.lean ====
section
/-!
DEFINITION. The decoder and the encoder of the two encodings of 30_encoding.md: the 32-bit command word (R140-R148)
and the script byte code (R160-R163). Both are total; every rejection has a name.
-/

namespace Sys2Proof

/-- Why bits are no instruction (R147, R163, R402). -/
inductive Reject where
  /-- OPC is reserved (R147 item 1). -/
  | reservedOpcode
  /-- A field the command's format does not use is non-zero (R147 item 2). -/
  | unusedField
  /-- MODE holds a value reserved for the command (R147 item 3). -/
  | reservedMode
  /-- SIGN with RD = RB or DERDEC with RD = RC (R147 items 4 and 5). -/
  | sameDestination
  /-- The first byte of a script command is neither a push prefix nor an opcode (R163). -/
  | invalidOpcode
  /-- A push prefix has fewer bytes after it than it announces (R402). -/
  | truncatedPush
  /-- There is no byte to read a script command from. -/
  | noByte
  /-- Bytes are left after one script command. -/
  | trailingBytes
  deriving DecidableEq, Repr

/-- The seven fields of a command word (R141). -/
structure Fields where
  opc : Fin 256
  rd : RegIdx
  ra : RegIdx
  rb : RegIdx
  rc : RegIdx
  re : RegIdx
  mode : RegIdx
  deriving DecidableEq, Repr

/-- The 4-bit field whose lowest bit is `lo` (R141, R14). -/
def nibble (w : Word32) (lo : Nat) : RegIdx := Fin.ofNat 16 (w.toNat / 2 ^ lo)

/-- The fields of a command word, at the positions of R141. -/
def fieldsOf (w : Word32) : Fields :=
  { opc := Fin.ofNat 256 w.toNat
    rd := nibble w 8
    ra := nibble w 12
    rb := nibble w 16
    rc := nibble w 20
    re := nibble w 24
    mode := nibble w 28 }

/-- The command word of given fields, at the positions of R141. -/
def wordOf (f : Fields) : Word32 :=
  BitVec.ofNat 32 (f.opc.val + 2 ^ 8 * f.rd.val + 2 ^ 12 * f.ra.val + 2 ^ 16 * f.rb.val + 2 ^ 20 * f.rc.val
    + 2 ^ 24 * f.re.val + 2 ^ 28 * f.mode.val)

/-- The formats of R142, each named after the fields it uses. -/
inductive Format where
  | N | D | A | AB | DA | DM | DAB | DAM | DABM | DABC | DABCE | DABCEM
  deriving DecidableEq, Repr

/-- Every field the format does not use is 0 (R142). -/
def unusedZero (fmt : Format) (f : Fields) : Bool :=
  match fmt with
  | .N => f.rd = 0 ∧ f.ra = 0 ∧ f.rb = 0 ∧ f.rc = 0 ∧ f.re = 0 ∧ f.mode = 0
  | .D => f.ra = 0 ∧ f.rb = 0 ∧ f.rc = 0 ∧ f.re = 0 ∧ f.mode = 0
  | .A => f.rd = 0 ∧ f.rb = 0 ∧ f.rc = 0 ∧ f.re = 0 ∧ f.mode = 0
  | .AB => f.rd = 0 ∧ f.rc = 0 ∧ f.re = 0 ∧ f.mode = 0
  | .DA => f.rb = 0 ∧ f.rc = 0 ∧ f.re = 0 ∧ f.mode = 0
  | .DM => f.ra = 0 ∧ f.rb = 0 ∧ f.rc = 0 ∧ f.re = 0
  | .DAB => f.rc = 0 ∧ f.re = 0 ∧ f.mode = 0
  | .DAM => f.rb = 0 ∧ f.rc = 0 ∧ f.re = 0
  | .DABM => f.rc = 0 ∧ f.re = 0
  | .DABC => f.re = 0 ∧ f.mode = 0
  | .DABCE => f.mode = 0
  | .DABCEM => true

/-- MODE of FNEW and FRED (R144). -/
def fieldMode (m : RegIdx) : Except Reject FieldSel :=
  match m.val with
  | 0 => .ok .p
  | 1 => .ok .n
  | 2 => .ok .user
  | _ => .error .reservedMode

/-- MODE of PNEW and PINF (R144). -/
def curveMode (m : RegIdx) : Except Reject CurveSel :=
  match m.val with
  | 0 => .ok .secp
  | 1 => .ok .user
  | _ => .error .reservedMode

/-- MODE of SECENC (R144). -/
def formMode (m : RegIdx) : Except Reject SecForm :=
  match m.val with
  | 0 => .ok .compressed
  | 1 => .ok .uncompressed
  | _ => .error .reservedMode

/-- The check of R147 item 2, before anything else of the word is looked at (R148). -/
def inFormat (fmt : Format) (f : Fields) (k : Except Reject Instr) : Except Reject Instr :=
  if unusedZero fmt f then k else .error .unusedField

/-- The opcode map of R146, with the checks of R147 in their order (R148). -/
def decodeFields (f : Fields) : Except Reject Instr :=
  match f.opc.val with
  | 0x00 => inFormat .N f (.ok .nop)
  | 0x01 => inFormat .DA f (.ok (.rmov f.rd f.ra))
  | 0x02 => inFormat .DA f (.ok (.qmov f.rd f.ra))
  | 0x03 => inFormat .D f (.ok (.rclr f.rd))
  | 0x04 => inFormat .D f (.ok (.qclr f.rd))
  | 0x10 => inFormat .A f (.ok (.mset f.ra))
  | 0x11 => inFormat .DAM f ((fieldMode f.mode).map (.fnew f.rd f.ra))
  | 0x12 => inFormat .DAM f ((fieldMode f.mode).map (.fred f.rd f.ra))
  | 0x13 => inFormat .DAB f (.ok (.fadd f.rd f.ra f.rb))
  | 0x14 => inFormat .DAB f (.ok (.fsub f.rd f.ra f.rb))
  | 0x15 => inFormat .DAB f (.ok (.fmul f.rd f.ra f.rb))
  | 0x16 => inFormat .DAB f (.ok (.fdiv f.rd f.ra f.rb))
  | 0x17 => inFormat .DA f (.ok (.finv f.rd f.ra))
  | 0x18 => inFormat .DAB f (.ok (.fpow f.rd f.ra f.rb))
  | 0x20 => inFormat .AB f (.ok (.cset f.ra f.rb))
  | 0x21 => inFormat .DABM f ((curveMode f.mode).map (.pnew f.rd f.ra f.rb))
  | 0x22 => inFormat .DM f ((curveMode f.mode).map (.pinf f.rd))
  | 0x23 => inFormat .DAB f (.ok (.padd f.rd f.ra f.rb))
  | 0x24 => inFormat .DA f (.ok (.pdbl f.rd f.ra))
  | 0x25 => inFormat .DAB f (.ok (.pmul f.rd f.ra f.rb))
  | 0x30 => inFormat .DA f (.ok (.kload f.rd f.ra))
  | 0x31 => inFormat .DAB f (if f.rd = f.rb then .error .sameDestination else .ok (.sign f.rd f.ra f.rb))
  | 0x32 => inFormat .DABCE f (.ok (.verify f.rd f.ra f.rb f.rc f.re))
  | 0x40 => inFormat .DABM f ((formMode f.mode).map (.secenc f.rd f.ra f.rb))
  | 0x41 => inFormat .DAB f (.ok (.secdec f.rd f.ra f.rb))
  | 0x42 => inFormat .DABC f (.ok (.derenc f.rd f.ra f.rb f.rc))
  | 0x43 => inFormat .DABC f (if f.rd = f.rc then .error .sameDestination else .ok (.derdec f.rd f.ra f.rb f.rc))
  | 0x50 => inFormat .DAB f (.ok (.sparse f.rd f.ra f.rb))
  | 0x51 => inFormat .DABCEM f (.ok (.seval f.rd f.ra f.rb f.rc f.re f.mode))
  | _ => .error .reservedOpcode

/-- The decoder of command words (R140, R146, R147). -/
def decodeCmd (w : Word32) : Except Reject Instr := decodeFields (fieldsOf w)

/-- One script command from the front of a byte string, with the bytes left (R160-R163, R402). -/
def decodeScriptCmd : Bytes → Except Reject (ScriptCmd × Bytes)
  | [] => .error .noByte
  | b :: rest =>
    if 1 ≤ b.toNat ∧ b.toNat ≤ Config.elemMax then
      if rest.length < b.toNat then .error .truncatedPush
      else .ok (.push (rest.take b.toNat), rest.drop b.toNat)
    else match b.toNat with
      | 0x76 => .ok (.op .dup, rest)
      | 0x87 => .ok (.op .equal, rest)
      | 0x88 => .ok (.op .equalverify, rest)
      | 0xA9 => .ok (.op .hash160, rest)
      | 0xAC => .ok (.op .checksig, rest)
      | _ => .error .invalidOpcode

/-- Encoded bits: a command word, or the bytes of one script command. -/
inductive Code where
  | cmd (w : Word32)
  | script (bs : Bytes)
  deriving DecidableEq, Repr

/-- The decoder of both encodings. A script code is exactly one script command. -/
def decode : Code → Except Reject Instr
  | .cmd w => decodeCmd w
  | .script bs =>
    match decodeScriptCmd bs with
    | .error e => .error e
    | .ok (c, []) => .ok c.toInstr
    | .ok (_, _ :: _) => .error .trailingBytes

/-- The opcode byte of a script opcode (R162). UNVERIFIED for OP_EQUALVERIFY, OP_HASH160 and OP_CHECKSIG, unsafe (log
entry 12): the spec supplies these three from general knowledge. -/
def ScriptOp.byte : ScriptOp → Byte
  | .dup => 0x76
  | .equal => 0x87
  | .equalverify => 0x88
  | .hash160 => 0xA9
  | .checksig => 0xAC

/-- The bytes of one script command: a length byte and the data, or the opcode byte (R161, R162, R403). -/
def ScriptCmd.bytes : ScriptCmd → Bytes
  | .op o => [o.byte]
  | .push d => BitVec.ofNat 8 d.length :: d

/-- The MODE value of a field (R144). -/
def FieldSel.mode : FieldSel → RegIdx
  | .p => 0
  | .n => 1
  | .user => 2

/-- The MODE value of a curve (R144). -/
def CurveSel.mode : CurveSel → RegIdx
  | .secp => 0
  | .user => 1

/-- The MODE value of a SEC form (R144). -/
def SecForm.mode : SecForm → RegIdx
  | .compressed => 0
  | .uncompressed => 1

/-- The word with the given opcode and fields; a field the format does not use is 0 (R142, R146). -/
def cmdCode (opc : Fin 256) (rd ra rb rc re mode : RegIdx) : Code :=
  .cmd (wordOf { opc, rd, ra, rb, rc, re, mode })

/-- The encoder, written from the opcode map of R146 and the byte code of R161 and R162. -/
def encode : Instr → Code
  | .nop => cmdCode 0x00 0 0 0 0 0 0
  | .rmov rd ra => cmdCode 0x01 rd ra 0 0 0 0
  | .qmov rd ra => cmdCode 0x02 rd ra 0 0 0 0
  | .rclr rd => cmdCode 0x03 rd 0 0 0 0 0
  | .qclr rd => cmdCode 0x04 rd 0 0 0 0 0
  | .mset ra => cmdCode 0x10 0 ra 0 0 0 0
  | .fnew rd ra m => cmdCode 0x11 rd ra 0 0 0 m.mode
  | .fred rd ra m => cmdCode 0x12 rd ra 0 0 0 m.mode
  | .fadd rd ra rb => cmdCode 0x13 rd ra rb 0 0 0
  | .fsub rd ra rb => cmdCode 0x14 rd ra rb 0 0 0
  | .fmul rd ra rb => cmdCode 0x15 rd ra rb 0 0 0
  | .fdiv rd ra rb => cmdCode 0x16 rd ra rb 0 0 0
  | .finv rd ra => cmdCode 0x17 rd ra 0 0 0 0
  | .fpow rd ra rb => cmdCode 0x18 rd ra rb 0 0 0
  | .cset ra rb => cmdCode 0x20 0 ra rb 0 0 0
  | .pnew rd ra rb m => cmdCode 0x21 rd ra rb 0 0 m.mode
  | .pinf rd m => cmdCode 0x22 rd 0 0 0 0 m.mode
  | .padd rd ra rb => cmdCode 0x23 rd ra rb 0 0 0
  | .pdbl rd ra => cmdCode 0x24 rd ra 0 0 0 0
  | .pmul rd ra rb => cmdCode 0x25 rd ra rb 0 0 0
  | .kload rd ra => cmdCode 0x30 rd ra 0 0 0 0
  | .sign rd ra rb => cmdCode 0x31 rd ra rb 0 0 0
  | .verify rd ra rb rc re => cmdCode 0x32 rd ra rb rc re 0
  | .secenc rd ra rb m => cmdCode 0x40 rd ra rb 0 0 m.mode
  | .secdec rd ra rb => cmdCode 0x41 rd ra rb 0 0 0
  | .derenc rd ra rb rc => cmdCode 0x42 rd ra rb rc 0 0
  | .derdec rd ra rb rc => cmdCode 0x43 rd ra rb rc 0 0
  | .sparse rd ra rb => cmdCode 0x50 rd ra rb 0 0 0
  | .seval rd ra rb rc re rz => cmdCode 0x51 rd ra rb rc re rz
  | .push d => .script (ScriptCmd.bytes (.push d))
  | .opDup => .script [ScriptOp.byte .dup]
  | .opEqual => .script [ScriptOp.byte .equal]
  | .opEqualverify => .script [ScriptOp.byte .equalverify]
  | .opHash160 => .script [ScriptOp.byte .hash160]
  | .opChecksig => .script [ScriptOp.byte .checksig]

/-- The bytes of a script row of the opcode table: the row's byte and, after it, as many zero bytes as the longest
script command can have (R161). -/
def tableScriptBytes (w : Nat) : Bytes := BitVec.ofNat 8 w :: List.replicate Config.elemMax 0

/-- What the decoder reads from an instruction of the opcode table whose first `nbits` bits are `w` and whose bits above
them are 0. A row of at most 8 bits is a script row, every other row is a command word. -/
def decodeTableWord (nbits w : Nat) : Option Instr :=
  if nbits ≤ 8 then
    match decodeScriptCmd (tableScriptBytes w) with
    | .ok (c, _) => some c.toInstr
    | .error _ => none
  else
    match decodeCmd (BitVec.ofNat 32 w) with
    | .ok i => some i
    | .error _ => none

end Sys2Proof
end

