-- ==== Sys2Proof/Machine/State.lean ====
section
/-!
DEFINITION. The architectural state (10_state.md section 1, 70_reset_and_hazards.md R604), the error codes
(60_exceptions.md R501), the reasons a step can stop, and the state after reset.
-/

namespace Sys2Proof.Machine

/-- The tag of an R register (R31). The codes 5..15 are excluded by the type (R31: never held). -/
inductive Tag where
  | empty
  | int
  | field (f : FieldSel)
  deriving DecidableEq, Repr

/-- An R register (R30, R31). -/
structure RReg where
  tag : Tag
  val : W256
  deriving DecidableEq, Repr

/-- A Q register (R40). DEDUCED (log entry 14), safe: x and y exist only where R40 says they mean something, and an
EMPTY register has no curve, since R65 and R464 make it SECP always. -/
inductive QReg where
  | empty
  | inf (curve : CurveSel)
  | coord (curve : CurveSel) (x y : W256)
  deriving DecidableEq, Repr

/-- The error codes other than NONE (R501). -/
inductive Err where
  | invalidNum
  | invalidPrime
  | notOnCurve
  | cannotParse
  | invalidOpcode
  | divisionByZero
  | illegalCmd
  | unwritten
  | tag
  | noUserField
  | noUserCurve
  | noKey
  | bufRange
  | capacity
  | fieldMismatch
  | curveMismatch
  deriving DecidableEq, Repr

/-- One evaluation of a combined script (R410, R411, R413, R420): the parsed commands, the index of the next one, the
stack (its FIRST element is the top, R401), the digest, and the destination of SEVAL's verdict. -/
structure Eval where
  cmds : List ScriptCmd
  pc : Nat
  stack : List Bytes
  z : W256
  rd : RegIdx
  deriving DecidableEq, Repr

/-- What can happen next: a host access (R102), a grant to the engine (R620), a power-on reset (R600). -/
inductive Event where
  | read (off : WordOff)
  | write (off : WordOff) (v : Word32)
  | engine
  | powerOn
  deriving DecidableEq, Repr

/-- BUF as the list of the bytes written since power-on, addresses strictly rising; an address not listed holds the
free byte of `Config.powerOnByte` (R101, R601; log entries 1 and 2). -/
abbrev Memory := List Host.Cell

/-- The machine. Each field's rule stands in INVENTORY.md under '## State'. BUSY is `pending.isSome` (R72). The last
four fields are the model's own (log entries 1, 3, 4, 9, 10). -/
structure State where
  r : Vector RReg 16
  q : Vector QReg 16
  umv : Bool
  um : W256
  ucv : Bool
  ua : W256
  ub : W256
  kv : Bool
  ksec : W256
  kpubx : W256
  kpuby : W256
  ie : Bool
  done : Bool
  err : Bool
  fatal : Bool
  wdrop : Bool
  errcode : Option Err
  lastcmd : Word32
  pending : Option Word32
  buf : Memory
  eval : Option Eval
  params : Params
  schedule : List Event
  rdata : Word32
  draw : Nat
  deriving DecidableEq, Repr

/-- Why the model stops. The block itself never stops: its errors are codes in STATUS (R500-R505). -/
inductive Fault where
  /-- Raised by the meanings of the six script commands in a state that holds no evaluation: the spec gives a script
  command an effect only inside one SEVAL (R74, R410). DEDUCED (log entry 7), safe: the model stops where the spec says
  nothing can be executed. -/
  | noEvaluation
  deriving DecidableEq, Repr

/-- Why an instruction has no meaning. -/
inductive Refusal where
  /-- Raised by exec's arm of an instruction that is not modelled; no arm raises it now. Safe: the model stops. -/
  | notModelled (mnemonic : String)
  deriving DecidableEq, Repr

/-- The answer of one instruction or one step. -/
abbrev Result := Host.Outcome State Fault Refusal

/-- The machine right after a power-on reset (R604): every register EMPTY or 0, BUF with nothing written (R601). The
model's own fields: nothing scheduled, 0 as the word last read, power-on number 0 (DESIGN CHOICE, log entries 1, 3, 4),
the default parameters (R10). -/
def State.reset : State :=
  { r := Vector.replicate 16 { tag := .empty, val := 0 }
    q := Vector.replicate 16 .empty
    umv := false
    um := 0
    ucv := false
    ua := 0
    ub := 0
    kv := false
    ksec := 0
    kpubx := 0
    kpuby := 0
    ie := false
    done := false
    err := false
    fatal := false
    wdrop := false
    errcode := none
    lastcmd := 0
    pending := none
    buf := []
    eval := none
    params := Config.defaultParams
    schedule := []
    rdata := 0
    draw := 0 }

end Sys2Proof.Machine
end

