-- ==== Sys2Proof/Machine/Bytes.lean ====
section
/-!
DEFINITION. Byte strings and integers (00_scope.md R15): fixed-width big-endian, minimal big-endian, and their inverse.
-/

namespace Sys2Proof.Machine

/-- `be_n(v)`: the n-byte big-endian encoding (R15). -/
def be : Nat → Nat → Bytes
  | 0, _ => []
  | n + 1, v => be n (v / 256) ++ [BitVec.ofNat 8 v]

/-- `int_be(s)`: the unsigned integer whose big-endian encoding is s (R15). -/
def intBe (s : Bytes) : Nat := s.foldl (fun acc b => 256 * acc + b.toNat) 0

/-- `minbe(v)`: be_32(v) without its leading zero bytes (R15). -/
def minbe (v : Nat) : Bytes := (be 32 v).dropWhile (· = 0)

/-- `s[i..j)` (R15). -/
def slice (s : Bytes) (i j : Nat) : Bytes := (s.drop i).take (j - i)

/-- `s[i]`, where the rule has checked i against the length (R15). -/
def byteAt (s : Bytes) (i : Nat) : Nat := (s.getD i 0).toNat

end Sys2Proof.Machine
end

