-- ==== Sys2Proof/Machine/Ops.lean ====
section
/-!
DEFINITION. The named operations over registers, BUF and STATUS: reads and writes, raising an error and completing a
command (60_exceptions.md R500-R505), acknowledging an error and accepting a command (R523, 10_state.md R63), and the
two resets (70_reset_and_hazards.md R600-R604).
-/

namespace Sys2Proof.Machine

/-! ### Registers -/

/-- `R[i]` (R16). -/
def State.getR (s : State) (i : RegIdx) : RReg := s.r[i]

/-- `R[i] <- (t, v)` (R16). -/
def State.setR (s : State) (i : RegIdx) (t : Tag) (v : W256) : State :=
  { s with r := s.r.set i.val { tag := t, val := v } i.isLt }

/-- `R[i] <- (INT, v)`. -/
def State.setInt (s : State) (i : RegIdx) (v : Nat) : State := s.setR i .int (toW v)

/-- `Q[i]` (R16). -/
def State.getQ (s : State) (i : RegIdx) : QReg := s.q[i]

/-- `Q[i] <- pt` (R16). -/
def State.setQ (s : State) (i : RegIdx) (x : QReg) : State := { s with q := s.q.set i.val x i.isLt }

/-- A register file with `f` applied to every register, for the loops `for i in 0..15` of R202 and R251. -/
def mapFile {α : Type} (f : α → α) (v : Vector α 16) : Vector α 16 :=
  ⟨⟨v.toList.map f⟩, by simp⟩

/-- `if R[i].tag == FU: R[i] <- (EMPTY, 0)` (R202). -/
def clearIfFU (x : RReg) : RReg := if x.tag = .field .user then { tag := .empty, val := 0 } else x

/-- `if Q[i].kind != EMPTY and Q[i].curve == USER: Q[i] <- (EMPTY, SECP, 0, 0)` (R202, R251). -/
def clearIfUser : QReg → QReg
  | .inf .user => .empty
  | .coord .user _ _ => .empty
  | x => x

/-- The first loop of R202. -/
def State.clearUserElements (s : State) : State := { s with r := mapFile clearIfFU s.r }

/-- The last loop of R202 and the loop of R251. -/
def State.clearUserPoints (s : State) : State := { s with q := mapFile clearIfUser s.q }

/-! ### BUF -/

/-- The canonical form of BUF: addresses strictly rising and below `BUF_SIZE` (log entry 2). -/
def Memory.wf (m : Memory) : Bool :=
  decide (m.Pairwise fun x y => x.1 < y.1) && m.all fun x => decide (x.1 < Config.bufSize)

/-- The byte written at an address since power-on, if one was. -/
def Memory.get? : Memory → Nat → Option Byte
  | [], _ => none
  | (b, w) :: m, a => if a = b then some w else Memory.get? m a

/-- The list with one byte written, in the order of addresses. -/
def Memory.insert : Memory → Nat → Byte → Memory
  | [], a, v => [(a, v)]
  | (b, w) :: m, a, v =>
    if a < b then (a, v) :: (b, w) :: m
    else if a = b then (a, v) :: m
    else (b, w) :: Memory.insert m a v

/-- One byte written. BUF has no address at or above `BUF_SIZE` (R100), and every write is checked against it before
(R112, R103): such a write would change nothing. -/
def Memory.set (m : Memory) (a : Nat) (v : Byte) : Memory :=
  if a < Config.bufSize then m.insert a v else m

/-- BUF byte `a`: the byte written there, or the free byte it holds since power-on (R101, R601). -/
def State.readByte (s : State) (a : Nat) : Byte := (s.buf.get? a).getD (Config.powerOnByte s.draw a)

/-- BUF with one byte written. -/
def State.writeByte (s : State) (a : Nat) (v : Byte) : State := { s with buf := s.buf.set a v }

/-- `MemRead(addr, n)` (R16, R111). -/
def State.memRead (s : State) (addr : Nat) : Nat → Bytes
  | 0 => []
  | n + 1 => s.readByte addr :: s.memRead (addr + 1) n

/-- `MemWrite(addr, n, bs)` (R16, R111). -/
def State.memWrite (s : State) (addr : Nat) : Bytes → State
  | [] => s
  | b :: bs => (s.writeByte addr b).memWrite (addr + 1) bs

/-! ### Raising an error, completion -/

/-- The errors that set FATAL (R501, R505). -/
def Err.isFatal : Err → Bool
  | .fieldMismatch => true
  | .curveMismatch => true
  | .invalidNum | .invalidPrime | .notOnCurve | .cannotParse | .invalidOpcode | .divisionByZero => false
  | .illegalCmd | .unwritten | .tag | .noUserField | .noUserCurve | .noKey | .bufRange | .capacity => false

/-- The end of every completion: `DONE <- 1; BUSY <- 0` (R502). The state internal to the command is gone (R74). -/
def State.finish (s : State) : State := { s with done := true, pending := none, eval := none }

/-- TAKING AN EXCEPTION: a command that raised `e` completes with ERR, ERRCODE and, for the two fatal codes, FATAL, and
writes nothing else (R500, R502, R504, R522). -/
def State.fail (s : State) (e : Err) : State :=
  State.finish { s with err := true, errcode := some e, fatal := s.fatal || e.isFatal }

/-- The completion step (R502): `p` is what the pseudocode answers, run on `s`: the state with every staged write
performed, or the error it raised (R17). -/
def State.complete (s : State) : Except Err State → State
  | .ok t => t.finish
  | .error e => s.fail e

/-- A command's whole engine step: it always completes (R620). -/
def State.command (s : State) (p : Except Err State) : Result := .next (s.complete p)

/-! ### Acknowledging an error, accepting a command -/

/-- RETURNING FROM AN EXCEPTION, and the other write-1-to-clear bits: a host write of `v` to STATUS (R62, R505, R523).
ERR and ERRCODE are cleared together, and only while FATAL = 0. -/
def State.writeStatus (s : State) (v : Word32) : State :=
  let ack := v.getLsbD 2 && !s.fatal
  { s with
    done := s.done && !v.getLsbD 1
    err := s.err && !ack
    errcode := if ack then none else s.errcode
    wdrop := s.wdrop && !v.getLsbD 4 }

/-- STATUS.BUSY: a command is pending (R62, R72). -/
def State.busy (s : State) : Bool := s.pending.isSome

/-- `WDROP <- 1` (R63, R71). -/
def State.dropWrite (s : State) : State := { s with wdrop := true }

/-- The acceptance of a command word, which also acknowledges the error before it (R63, R523). -/
def State.accept (s : State) (w : Word32) : State :=
  { s with lastcmd := w, pending := some w, done := false, err := false, errcode := none }

/-! ### Reset -/

/-- The soft reset (R602): every piece of state but BUF takes its reset value, and a pending command is abandoned. The
model's own fields are no state of the block and stay. -/
def State.softReset (s : State) : State :=
  { State.reset with
    buf := s.buf, params := s.params, schedule := s.schedule, rdata := s.rdata, draw := s.draw }

/-- The power-on reset (R600, R601): every piece of state takes its reset value, and every BUF byte is free again. -/
def State.powerOn (s : State) : State :=
  { State.reset with params := s.params, schedule := s.schedule, rdata := s.rdata, draw := s.draw + 1 }

end Sys2Proof.Machine
end

