-- ==== Sys2Proof/Machine/Arith.lean ====
section
/-!
DEFINITION. The field helpers every unit uses (00_scope.md R18, 40_field.md R209, R210): exact integers, one reduction.
-/

namespace Sys2Proof.Machine

/-- `fadd(a, b, m)` (R18). -/
def fadd (a b m : Nat) : Nat := (a + b) % m

/-- `fsub(a, b, m)` (R18): the modulus is added first. -/
def fsub (a b m : Nat) : Nat := (a + m - b) % m

/-- `fmul(a, b, m)` (R18). -/
def fmul (a b m : Nat) : Nat := (a * b) % m

/-- Square-and-multiply from the lowest exponent bit: `acc * b^e mod m`, for an exponent of at most `fuel` bits. -/
def modexpLoop (m : Nat) : Nat → Nat → Nat → Nat → Nat
  | 0, _, _, acc => acc
  | fuel + 1, b, e, acc =>
    if e = 0 then acc
    else modexpLoop m fuel (b * b % m) (e / 2) (if e % 2 = 1 then acc * b % m else acc)

/-- `modexp(b, e, m) = b^e mod m`, with `modexp(b, 0, m) = 1` (R18). Laws/Arith.lean proves it equal to that formula. -/
def modexp (b e m : Nat) : Nat := modexpLoop m (Nat.log2 e + 1) b e 1

/-- `fpow(a, e, m)` (R210): 1 for exponent 0; otherwise the exponent is reduced modulo m - 1 first. -/
def fpow (a e m : Nat) : Nat := if e = 0 then 1 else modexp a (e % (m - 1)) m

/-- `fdiv(a, b, m)` (R209): Fermat's formula for every modulus. -/
def fdiv (a b m : Nat) : Except Err Nat :=
  if b = 0 then .error .divisionByZero else .ok (a * modexp b (m - 2) m % m)

end Sys2Proof.Machine
end

