-- ==== Sys2Proof/Machine/Points.lean ====
section
/-!
DEFINITION. The short-Weierstrass point group (00_scope.md R20; 41_curve.md R260-R266): the affine case list in the
source's order, and double-and-add.
-/

namespace Sys2Proof.Machine

/-- A curve value `(m, a, b)` (R20, 10_state.md R41). -/
structure Curve where
  m : Nat
  a : Nat
  b : Nat
  deriving DecidableEq, Repr

/-- A point on a curve: the point at infinity, or coordinates (R20). -/
inductive Pt where
  | inf
  | aff (x y : Nat)
  deriving DecidableEq, Repr

/-- `SECP = (P, 0, 7)` (R20). -/
def secp : Curve := { m := Config.P, a := 0, b := 7 }

/-- The generator G (R12, R52). -/
def genG : Pt := .aff Config.Gx Config.Gy

/-- `onCurve(x, y, C)`: the curve equation (R252, R352). -/
def onCurve (x y : Nat) (c : Curve) : Bool :=
  fmul y y c.m = fadd (fadd (fmul (fmul x x c.m) x c.m) (fmul c.a x c.m) c.m) c.b c.m

/-- The new point of a slope `s` through `(x1, y1)` whose x coordinate is `x3`: the last lines of R263 and R264. -/
def chordPoint (s x1 y1 x3 m : Nat) : Pt := .aff x3 (fsub (fmul s (fsub x1 x3 m) m) y1 m)

/-- Case 4, general doubling (R263). -/
def doublePoint (x1 y1 : Nat) (c : Curve) : Except Err Pt := do
  let s ← fdiv (fadd (fmul 3 (fmul x1 x1 c.m) c.m) c.a c.m) (fmul 2 y1 c.m) c.m
  return chordPoint s x1 y1 (fsub (fmul s s c.m) (fmul 2 x1 c.m) c.m) c.m

/-- Case 5, distinct x (R264). -/
def addDistinct (x1 y1 x2 y2 : Nat) (c : Curve) : Except Err Pt := do
  let s ← fdiv (fsub y1 y2 c.m) (fsub x1 x2 c.m) c.m
  return chordPoint s x1 y1 (fsub (fsub (fmul s s c.m) x1 c.m) x2 c.m) c.m

/-- `padd(p1, p2, C)`, the single definition of point addition: R261, R262, R263, R264, R265 in this order. -/
def padd (p1 p2 : Pt) (c : Curve) : Except Err Pt :=
  match p1, p2 with
  | .inf, _ => .ok p2
  | .aff _ _, .inf => .ok p1
  | .aff x1 y1, .aff x2 y2 =>
    if x1 = x2 ∧ fadd y1 y2 c.m = 0 then .ok .inf
    else if x1 = x2 ∧ y1 = y2 then
      if y1 = 0 then .ok .inf else doublePoint x1 y1 c
    else if x1 ≠ x2 then addDistinct x1 y1 x2 y2 c
    else .error .divisionByZero

/-- `if c mod 2 == 1: result = padd(result, current, C)` (R266). -/
def addBit (k : Nat) (result current : Pt) (c : Curve) : Except Err Pt :=
  if k % 2 = 1 then padd result current c else .ok result

/-- The loop of R266: `result`, `current` and the scalar's remaining bits `k`, of which there are at most `fuel`. The
point is doubled after every bit, the last one included. -/
def pmulLoop (c : Curve) : Nat → Pt → Pt → Nat → Except Err Pt
  | 0, result, _, _ => .ok result
  | fuel + 1, result, current, k =>
    if k = 0 then .ok result
    else do
      let result' ← addBit k result current c
      let current' ← padd current current c
      pmulLoop c fuel result' current' (k / 2)

/-- `pmul(k, p, C)` (R266). -/
def pmul (k : Nat) (p : Pt) (c : Curve) : Except Err Pt := pmulLoop c (Nat.log2 k + 1) .inf p k

end Sys2Proof.Machine
end

