-- ==== Sys2Proof/Machine/Operands.lean ====
section
/-!
DEFINITION. Every operand form of the commands: integer, field element and point reads (10_state.md R34, R42), fields and
curves by value (R32, R41), selection by MODE (40_field.md R201, 41_curve.md R250), the BUF range check (20_memory.md R112).
-/

namespace Sys2Proof.Machine

/-- `rint(i)` (R34): any non-EMPTY register, read as an integer. -/
def State.rint (s : State) (i : RegIdx) : Except Err Nat :=
  match (s.getR i).tag with
  | .empty => .error .unwritten
  | .int => .ok (s.getR i).val.toNat
  | .field _ => .ok (s.getR i).val.toNat

/-- `rfield(i)` (R34): a field element, with the field its tag names. -/
def State.rfield (s : State) (i : RegIdx) : Except Err (Nat × FieldSel) :=
  match (s.getR i).tag with
  | .empty => .error .unwritten
  | .int => .error .tag
  | .field f => .ok ((s.getR i).val.toNat, f)

/-- `fieldOf(t)` (R32): the modulus. Fields are the same when these numbers are equal. -/
def State.fieldOf (s : State) : FieldSel → Nat
  | .p => Config.P
  | .n => Config.N
  | .user => s.um.toNat

/-- `curveOf(c)` (R41): the curve value. Curves are the same when these triples are equal. -/
def State.curveOf (s : State) : CurveSel → Curve
  | .secp => secp
  | .user => { m := s.um.toNat, a := s.ua.toNat, b := s.ub.toNat }

/-- `qpt(i)` (R42): a point, with its curve tag. -/
def State.qpt (s : State) (i : RegIdx) : Except Err (Pt × CurveSel) :=
  match s.getQ i with
  | .empty => .error .unwritten
  | .inf c => .ok (.inf, c)
  | .coord c x y => .ok (.aff x.toNat y.toNat, c)

/-- `(INF, c, 0, 0) if r == INF else (COORD, c, r.x, r.y)` (R267-R269). -/
def pointReg (c : CurveSel) : Pt → QReg
  | .inf => .inf c
  | .aff x y => .coord c (toW x) (toW y)

/-- What `readPair()` answers: the two values, the first operand's field, its modulus (R205). -/
structure FieldPair where
  a : Nat
  b : Nat
  t : FieldSel
  m : Nat
  deriving DecidableEq, Repr

/-- `readPair()` (R205), with the fatal mismatch check by value. -/
def State.readPair (s : State) (ra rb : RegIdx) : Except Err FieldPair := do
  let (a, ta) ← s.rfield ra
  let (b, tb) ← s.rfield rb
  if s.fieldOf ta ≠ s.fieldOf tb then .error .fieldMismatch
  else .ok { a := a, b := b, t := ta, m := s.fieldOf ta }

/-- `selectField(mode)` (R201): the field, if it can be used. -/
def State.selectField (s : State) : FieldSel → Except Err FieldSel
  | .p => .ok .p
  | .n => .ok .n
  | .user => if s.umv then .ok .user else .error .noUserField

/-- `selectCurve(mode)` (R250): the curve, if it can be used. -/
def State.selectCurve (s : State) : CurveSel → Except Err CurveSel
  | .secp => .ok .secp
  | .user => if s.ucv then .ok .user else .error .noUserCurve

/-- The range check of R112, on the full values of address and length. -/
def rangeCheck (addr n : Nat) : Except Err Unit :=
  if addr + n ≤ Config.bufSize then .ok () else .error .bufRange

end Sys2Proof.Machine
end

