-- ==== Sys2Proof/Machine/CurveUnit.lean ====
section
/-!
DEFINITION. The curve unit's commands (41_curve.md R251-R253, R267-R269).
-/

namespace Sys2Proof.Machine

/-- The writes of CSET (R251), in its order. -/
def State.setUserCurve (s : State) (a b : Nat) : State :=
  State.clearUserPoints { s with ua := toW a, ub := toW b, ucv := true }

/-- CSET (R251): coefficients are in the user field by value. -/
def execCset (ra rb : RegIdx) (s : State) : Result :=
  s.command do
    let (a, ta) ← s.rfield ra
    let (b, tb) ← s.rfield rb
    if s.umv = false then .error .noUserField
    else if s.fieldOf ta ≠ s.um.toNat ∨ s.fieldOf tb ≠ s.um.toNat then .error .tag
    else .ok (s.setUserCurve a b)

/-- PNEW (R252): the curve equation is checked once, here. -/
def execPnew (rd ra rb : RegIdx) (mode : CurveSel) (s : State) : Result :=
  s.command do
    let (x, tx) ← s.rfield ra
    let (y, ty) ← s.rfield rb
    let c ← s.selectCurve mode
    if s.fieldOf tx ≠ (s.curveOf c).m ∨ s.fieldOf ty ≠ (s.curveOf c).m then .error .fieldMismatch
    else if onCurve x y (s.curveOf c) then .ok (s.setQ rd (.coord c (toW x) (toW y)))
    else .error .notOnCurve

/-- PINF (R253). -/
def execPinf (rd : RegIdx) (mode : CurveSel) (s : State) : Result :=
  s.command do
    let c ← s.selectCurve mode
    .ok (s.setQ rd (.inf c))

/-- PADD (R267): curves are compared by value (R260); the result's curve tag is the first point's. -/
def execPadd (rd ra rb : RegIdx) (s : State) : Result :=
  s.command do
    let (p1, c1) ← s.qpt ra
    let (p2, c2) ← s.qpt rb
    if s.curveOf c1 ≠ s.curveOf c2 then .error .curveMismatch
    else do
      let r ← padd p1 p2 (s.curveOf c1)
      .ok (s.setQ rd (pointReg c1 r))

/-- PDBL (R268): addition of a point to itself. -/
def execPdbl (rd ra : RegIdx) (s : State) : Result :=
  s.command do
    let (p, c) ← s.qpt ra
    let r ← padd p p (s.curveOf c)
    .ok (s.setQ rd (pointReg c r))

/-- PMUL (R269). -/
def execPmul (rd ra rb : RegIdx) (s : State) : Result :=
  s.command do
    let k ← s.rint ra
    let (p, c) ← s.qpt rb
    let r ← pmul k p (s.curveOf c)
    .ok (s.setQ rd (pointReg c r))

end Sys2Proof.Machine
end

