-- ==== Sys2Proof/Machine/Field.lean ====
section
/-!
DEFINITION. The field unit's commands (40_field.md R202-R213).
-/

namespace Sys2Proof.Machine

/-- The writes of MSET (R202), in its order: UM, the user curve, every FU register, every USER point. -/
def State.setUserModulus (s : State) (v : Nat) : State :=
  State.clearUserPoints (State.clearUserElements
    { s with um := toW v, umv := true, ua := 0, ub := 0, ucv := false })

/-- MSET (R202). -/
def execMset (ra : RegIdx) (s : State) : Result :=
  s.command do
    let v ← s.rint ra
    if v ≤ 1 then .error .invalidPrime else .ok (s.setUserModulus v)

/-- FNEW (R203). -/
def execFnew (rd ra : RegIdx) (mode : FieldSel) (s : State) : Result :=
  s.command do
    let v ← s.rint ra
    let t ← s.selectField mode
    if v ≥ s.fieldOf t then .error .invalidNum else .ok (s.setR rd (.field t) (toW v))

/-- FRED (R204). -/
def execFred (rd ra : RegIdx) (mode : FieldSel) (s : State) : Result :=
  s.command do
    let v ← s.rint ra
    let t ← s.selectField mode
    .ok (s.setR rd (.field t) (toW (v % s.fieldOf t)))

/-- FADD (R206). -/
def execFadd (rd ra rb : RegIdx) (s : State) : Result :=
  s.command do
    let p ← s.readPair ra rb
    .ok (s.setR rd (.field p.t) (toW (fadd p.a p.b p.m)))

/-- FSUB (R207). -/
def execFsub (rd ra rb : RegIdx) (s : State) : Result :=
  s.command do
    let p ← s.readPair ra rb
    .ok (s.setR rd (.field p.t) (toW (fsub p.a p.b p.m)))

/-- FMUL (R208). -/
def execFmul (rd ra rb : RegIdx) (s : State) : Result :=
  s.command do
    let p ← s.readPair ra rb
    .ok (s.setR rd (.field p.t) (toW (fmul p.a p.b p.m)))

/-- FDIV (R211). -/
def execFdiv (rd ra rb : RegIdx) (s : State) : Result :=
  s.command do
    let p ← s.readPair ra rb
    let v ← fdiv p.a p.b p.m
    .ok (s.setR rd (.field p.t) (toW v))

/-- FINV (R212): FDIV with dividend 1. -/
def execFinv (rd ra : RegIdx) (s : State) : Result :=
  s.command do
    let (a, t) ← s.rfield ra
    let v ← fdiv 1 a (s.fieldOf t)
    .ok (s.setR rd (.field t) (toW v))

/-- FPOW (R213): the exponent register's tag does not matter. -/
def execFpow (rd ra rb : RegIdx) (s : State) : Result :=
  s.command do
    let (a, t) ← s.rfield ra
    let e ← s.rint rb
    .ok (s.setR rd (.field t) (toW (fpow a e (s.fieldOf t))))

end Sys2Proof.Machine
end

