-- ==== Sys2Proof/Machine/Codec.lean ====
section
/-!
DEFINITION. The codec unit (43_codec.md R350-R364): SEC points, DER signatures, and the commands SECENC, SECDEC, DERENC
and DERDEC.
-/

namespace Sys2Proof.Machine

/-! ### SEC -/

/-- `secEnc(p, form)` (R351). UNVERIFIED (log entry 12), unsafe: which prefix names which parity is the spec's general
knowledge. -/
def secEnc : Pt → SecForm → Bytes
  | .inf, _ => [0x00]
  | .aff x y, .uncompressed => [0x04] ++ be 32 x ++ be 32 y
  | .aff x y, .compressed => [BitVec.ofNat 8 (0x02 + y % 2)] ++ be 32 x

/-- The uncompressed form of `secDec` (R352). -/
def secDecUncompressed (d : Bytes) : Except Err (Nat × Nat) :=
  if d.length ≠ 65 then .error .cannotParse
  else
    let x := intBe (slice d 1 33)
    let y := intBe (slice d 33 65)
    if x ≥ Config.P ∨ y ≥ Config.P then .error .invalidNum
    else if onCurve x y secp then .ok (x, y) else .error .notOnCurve

/-- The candidate `yc` of R352: `(x³ + 7)^((P + 1)/4) mod P`. -/
def secRoot (x : Nat) : Nat :=
  fpow (fadd (fmul (fmul x x Config.P) x Config.P) 7 Config.P) ((Config.P + 1) / 4) Config.P

/-- The y coordinate of the requested parity (R352). -/
def secSelectY (x parity : Nat) : Nat :=
  if secRoot x % 2 = parity then secRoot x else fsub 0 (secRoot x) Config.P

/-- The compressed form of `secDec` (R352), with the parity its marker asks for. -/
def secDecCompressed (d : Bytes) (parity : Nat) : Except Err (Nat × Nat) :=
  if d.length ≠ 33 then .error .cannotParse
  else
    let x := intBe (slice d 1 33)
    if x ≥ Config.P then .error .invalidNum
    else if onCurve x (secSelectY x parity) secp then .ok (x, secSelectY x parity) else .error .notOnCurve

/-- `secDec(d)` (R352). -/
def secDec (d : Bytes) : Except Err (Nat × Nat) :=
  if d.length = 0 then .error .cannotParse
  else match byteAt d 0 with
    | 0x04 => secDecUncompressed d
    | 0x02 => secDecCompressed d 0
    | 0x03 => secDecCompressed d 1
    | _ => .error .cannotParse

/-! ### DER -/

/-- The content bytes of a DER integer (R360): minimal, with a sign pad where the high bit is set or nothing is left. -/
def derContent (v : Nat) : Bytes :=
  let b := minbe v
  if b.length = 0 ∨ byteAt b 0 ≥ 0x80 then 0x00 :: b else b

/-- `derInt(v)` (R360). -/
def derInt (v : Nat) : Bytes := [0x02, BitVec.ofNat 8 (derContent v).length] ++ derContent v

/-- `derEnc(r, s)` (R361). -/
def derEnc (r s : Nat) : Bytes :=
  let body := derInt r ++ derInt s
  [0x30, BitVec.ofNat 8 body.length] ++ body

/-- The second half of `derDec` (R362): the integer s from index `i` to the end. -/
def derDecS (d : Bytes) (r i : Nat) : Except Err (Nat × Nat) :=
  if i + 2 > d.length ∨ byteAt d i ≠ 0x02 then .error .cannotParse
  else
    let sl := byteAt d (i + 1)
    if i + 2 + sl > d.length then .error .cannotParse
    else if i + 2 + sl ≠ d.length then .error .cannotParse
    else .ok (r, intBe (slice d (i + 2) (i + 2 + sl)))

/-- `derDec(d)` (R362). -/
def derDec (d : Bytes) : Except Err (Nat × Nat) :=
  if d.length < 2 ∨ byteAt d 0 ≠ 0x30 then .error .cannotParse
  else if byteAt d 1 + 2 ≠ d.length then .error .cannotParse
  else if d.length < 4 ∨ byteAt d 2 ≠ 0x02 then .error .cannotParse
  else
    let rl := byteAt d 3
    if 4 + rl > d.length then .error .cannotParse
    else derDecS d (intBe (slice d 4 (4 + rl))) (4 + rl)

/-! ### Commands -/

/-- The writes of SECENC and DERENC (R353, R363): the bytes at `addr`, and their number in RD. -/
def State.putBytes (s : State) (rd : RegIdx) (addr : Nat) (bs : Bytes) : State :=
  (s.memWrite addr bs).setInt rd bs.length

/-- SECENC (R353). -/
def execSecenc (rd ra rb : RegIdx) (mode : SecForm) (s : State) : Result :=
  s.command do
    let (p, c) ← s.qpt ra
    let addr ← s.rint rb
    if s.curveOf c ≠ secp then .error .tag
    else do
      rangeCheck addr (secEnc p mode).length
      .ok (s.putBytes rd addr (secEnc p mode))

/-- SECDEC (R354). -/
def execSecdec (rd ra rb : RegIdx) (s : State) : Result :=
  s.command do
    let addr ← s.rint ra
    let n ← s.rint rb
    rangeCheck addr n
    let (x, y) ← secDec (s.memRead addr n)
    .ok (s.setQ rd (.coord .secp (toW x) (toW y)))

/-- DERENC (R363). -/
def execDerenc (rd ra rb rc : RegIdx) (s : State) : Result :=
  s.command do
    let r ← s.rint ra
    let t ← s.rint rb
    let addr ← s.rint rc
    rangeCheck addr (derEnc r t).length
    .ok (s.putBytes rd addr (derEnc r t))

/-- DERDEC (R364). RD = RC is an illegal word (R147). -/
def execDerdec (rd ra rb rc : RegIdx) (s : State) : Result :=
  s.command (if rd = rc then .error .illegalCmd else do
    let addr ← s.rint ra
    let n ← s.rint rb
    rangeCheck addr n
    let (r, t) ← derDec (s.memRead addr n)
    if r ≥ 2 ^ 256 ∨ t ≥ 2 ^ 256 then .error .capacity
    else .ok ((s.setInt rd r).setInt rc t))

end Sys2Proof.Machine
end

