-- ==== Sys2Proof/Machine/Hash.lean ====
section
/-!
DEFINITION. The hash functions of 00_scope.md R19: SHA-256, RIPEMD-160, HASH160, HMAC-SHA-256. PRESUMED (log entry 13),
unsafe: the spec names the standards (FIPS 180-4, RIPEMD-160, RFC 2104) and does not print them; the definitions below are
the standards'. The spec's digests in 95_test_vectors.md section 2.6 agree with them.
-/

namespace Sys2Proof.Machine

/-- The 32-bit words of a byte string, four bytes each, read by `rd`. -/
def words32 (rd : Byte → Byte → Byte → Byte → Nat) : Bytes → List Word32
  | a :: b :: c :: d :: rest => BitVec.ofNat 32 (rd a b c d) :: words32 rd rest
  | _ => []

/-- Four bytes, most significant first. -/
def readBE (a b c d : Byte) : Nat := ((a.toNat * 256 + b.toNat) * 256 + c.toNat) * 256 + d.toNat

/-- Four bytes, least significant first. -/
def readLE (a b c d : Byte) : Nat := readBE d c b a

/-- The padding both hashes share: 0x80, zero bytes up to 56 modulo 64, and the 8 bytes `len` of the bit length. -/
def padMessage (msg len : Bytes) : Bytes :=
  msg ++ [0x80] ++ List.replicate ((119 - msg.length % 64) % 64) 0 ++ len

/-- `f` over the 16-word blocks of a word list, of which there are at most `fuel`. -/
def foldBlocks {α : Type} (f : α → List Word32 → α) : Nat → α → List Word32 → α
  | 0, h, _ => h
  | fuel + 1, h, ws => if ws = [] then h else foldBlocks f fuel (f h (ws.take 16)) (ws.drop 16)

/-! ### SHA-256 (FIPS 180-4) -/

/-- Eight 32-bit working variables. -/
structure ShaState where
  a : Word32
  b : Word32
  c : Word32
  d : Word32
  e : Word32
  f : Word32
  g : Word32
  h : Word32
  deriving DecidableEq, Repr

/-- The 64 round constants. -/
def shaK : List Word32 :=
  [0x428a2f98, 0x71374491, 0xb5c0fbcf, 0xe9b5dba5, 0x3956c25b, 0x59f111f1, 0x923f82a4, 0xab1c5ed5]
    ++ [0xd807aa98, 0x12835b01, 0x243185be, 0x550c7dc3, 0x72be5d74, 0x80deb1fe, 0x9bdc06a7, 0xc19bf174]
    ++ [0xe49b69c1, 0xefbe4786, 0x0fc19dc6, 0x240ca1cc, 0x2de92c6f, 0x4a7484aa, 0x5cb0a9dc, 0x76f988da]
    ++ [0x983e5152, 0xa831c66d, 0xb00327c8, 0xbf597fc7, 0xc6e00bf3, 0xd5a79147, 0x06ca6351, 0x14292967]
    ++ [0x27b70a85, 0x2e1b2138, 0x4d2c6dfc, 0x53380d13, 0x650a7354, 0x766a0abb, 0x81c2c92e, 0x92722c85]
    ++ [0xa2bfe8a1, 0xa81a664b, 0xc24b8b70, 0xc76c51a3, 0xd192e819, 0xd6990624, 0xf40e3585, 0x106aa070]
    ++ [0x19a4c116, 0x1e376c08, 0x2748774c, 0x34b0bcb5, 0x391c0cb3, 0x4ed8aa4a, 0x5b9cca4f, 0x682e6ff3]
    ++ [0x748f82ee, 0x78a5636f, 0x84c87814, 0x8cc70208, 0x90befffa, 0xa4506ceb, 0xbef9a3f7, 0xc67178f2]

/-- The initial hash value. -/
def shaInit : ShaState :=
  { a := 0x6a09e667, b := 0xbb67ae85, c := 0x3c6ef372, d := 0xa54ff53a
    e := 0x510e527f, f := 0x9b05688c, g := 0x1f83d9ab, h := 0x5be0cd19 }

/-- The next word of the message schedule, from the words so far, latest first. -/
def shaNextWord (ws : List Word32) : Word32 :=
  let x := ws.getD 1 0
  let y := ws.getD 14 0
  let s1 := x.rotateRight 17 ^^^ x.rotateRight 19 ^^^ (x >>> 10)
  let s0 := y.rotateRight 7 ^^^ y.rotateRight 18 ^^^ (y >>> 3)
  s1 + ws.getD 6 0 + s0 + ws.getD 15 0

/-- `n` more words of the message schedule, latest first. -/
def shaExpand : Nat → List Word32 → List Word32
  | 0, ws => ws
  | n + 1, ws => shaExpand n (shaNextWord ws :: ws)

/-- One round with constant plus schedule word `kw`. -/
def shaRound (s : ShaState) (kw : Word32) : ShaState :=
  let s1 := s.e.rotateRight 6 ^^^ s.e.rotateRight 11 ^^^ s.e.rotateRight 25
  let ch := (s.e &&& s.f) ^^^ (~~~s.e &&& s.g)
  let t1 := s.h + s1 + ch + kw
  let s0 := s.a.rotateRight 2 ^^^ s.a.rotateRight 13 ^^^ s.a.rotateRight 22
  let maj := (s.a &&& s.b) ^^^ (s.a &&& s.c) ^^^ (s.b &&& s.c)
  { a := t1 + (s0 + maj), b := s.a, c := s.b, d := s.c, e := s.d + t1, f := s.e, g := s.f, h := s.g }

/-- One block. -/
def shaBlock (h : ShaState) (block : List Word32) : ShaState :=
  let ws := (shaExpand 48 block.reverse).reverse
  let s := (List.zipWith (· + ·) shaK ws).foldl shaRound h
  { a := h.a + s.a, b := h.b + s.b, c := h.c + s.c, d := h.d + s.d
    e := h.e + s.e, f := h.f + s.f, g := h.g + s.g, h := h.h + s.h }

/-- SHA-256 of a byte string (R19). -/
def sha256 (msg : Bytes) : Bytes :=
  let ws := words32 readBE (padMessage msg (be 8 (8 * msg.length)))
  let s := foldBlocks shaBlock ws.length shaInit ws
  ([s.a, s.b, s.c, s.d, s.e, s.f, s.g, s.h].map fun w => be 4 w.toNat).flatten

/-! ### RIPEMD-160 -/

/-- Five 32-bit chaining variables. -/
structure RmdState where
  a : Word32
  b : Word32
  c : Word32
  d : Word32
  e : Word32
  deriving DecidableEq, Repr

/-- The five boolean functions, by number. -/
def rmdF (n : Nat) (x y z : Word32) : Word32 :=
  match n with
  | 0 => x ^^^ y ^^^ z
  | 1 => (x &&& y) ||| (~~~x &&& z)
  | 2 => (x ||| ~~~y) ^^^ z
  | 3 => (x &&& z) ||| (y &&& ~~~z)
  | _ => x ^^^ (y ||| ~~~z)

/-- Sixteen steps of one line: the boolean function's number, the added constant, and for each step which message word is
added and by how much it is rotated. -/
structure RmdRound where
  f : Nat
  k : Word32
  words : List Nat
  rots : List Nat

/-- The left line. -/
def rmdLeft : List RmdRound :=
  [ { f := 0, k := 0x00000000
      words := [0, 1, 2, 3, 4, 5, 6, 7, 8, 9, 10, 11, 12, 13, 14, 15]
      rots := [11, 14, 15, 12, 5, 8, 7, 9, 11, 13, 14, 15, 6, 7, 9, 8] },
    { f := 1, k := 0x5a827999
      words := [7, 4, 13, 1, 10, 6, 15, 3, 12, 0, 9, 5, 2, 14, 11, 8]
      rots := [7, 6, 8, 13, 11, 9, 7, 15, 7, 12, 15, 9, 11, 7, 13, 12] },
    { f := 2, k := 0x6ed9eba1
      words := [3, 10, 14, 4, 9, 15, 8, 1, 2, 7, 0, 6, 13, 11, 5, 12]
      rots := [11, 13, 6, 7, 14, 9, 13, 15, 14, 8, 13, 6, 5, 12, 7, 5] },
    { f := 3, k := 0x8f1bbcdc
      words := [1, 9, 11, 10, 0, 8, 12, 4, 13, 3, 7, 15, 14, 5, 6, 2]
      rots := [11, 12, 14, 15, 14, 15, 9, 8, 9, 14, 5, 6, 8, 6, 5, 12] },
    { f := 4, k := 0xa953fd4e
      words := [4, 0, 5, 9, 7, 12, 2, 10, 14, 1, 3, 8, 11, 6, 15, 13]
      rots := [9, 15, 5, 11, 6, 8, 13, 12, 5, 12, 13, 14, 11, 8, 5, 6] } ]

/-- The right line. -/
def rmdRight : List RmdRound :=
  [ { f := 4, k := 0x50a28be6
      words := [5, 14, 7, 0, 9, 2, 11, 4, 13, 6, 15, 8, 1, 10, 3, 12]
      rots := [8, 9, 9, 11, 13, 15, 15, 5, 7, 7, 8, 11, 14, 14, 12, 6] },
    { f := 3, k := 0x5c4dd124
      words := [6, 11, 3, 7, 0, 13, 5, 10, 14, 15, 8, 12, 4, 9, 1, 2]
      rots := [9, 13, 15, 7, 12, 8, 9, 11, 7, 7, 12, 7, 6, 15, 13, 11] },
    { f := 2, k := 0x6d703ef3
      words := [15, 5, 1, 3, 7, 14, 6, 9, 11, 8, 12, 2, 10, 0, 4, 13]
      rots := [9, 7, 15, 11, 8, 6, 6, 14, 12, 13, 5, 14, 13, 13, 7, 5] },
    { f := 1, k := 0x7a6d76e9
      words := [8, 6, 4, 1, 3, 11, 15, 0, 5, 12, 2, 13, 9, 7, 10, 14]
      rots := [15, 5, 8, 11, 14, 14, 6, 14, 6, 9, 12, 9, 12, 5, 15, 8] },
    { f := 0, k := 0x00000000
      words := [12, 15, 10, 4, 1, 5, 8, 7, 6, 2, 13, 14, 0, 3, 9, 11]
      rots := [8, 5, 12, 9, 12, 5, 14, 6, 8, 13, 6, 5, 15, 13, 11, 11] } ]

/-- One step. -/
def rmdStep (f : Nat) (k x : Word32) (rot : Nat) (s : RmdState) : RmdState :=
  let t := (s.a + rmdF f s.b s.c s.d + x + k).rotateLeft rot + s.e
  { a := s.e, b := t, c := s.b, d := s.c.rotateLeft 10, e := s.d }

/-- One line of 80 steps over a block. -/
def rmdLine (rounds : List RmdRound) (block : List Word32) (h : RmdState) : RmdState :=
  rounds.foldl (fun s r =>
    (List.zip r.words r.rots).foldl (fun s x => rmdStep r.f r.k (block.getD x.1 0) x.2 s) s) h

/-- One block. -/
def rmdBlock (h : RmdState) (block : List Word32) : RmdState :=
  let l := rmdLine rmdLeft block h
  let r := rmdLine rmdRight block h
  { a := h.b + l.c + r.d, b := h.c + l.d + r.e, c := h.d + l.e + r.a, d := h.e + l.a + r.b, e := h.a + l.b + r.c }

/-- The initial value. -/
def rmdInit : RmdState :=
  { a := 0x67452301, b := 0xefcdab89, c := 0x98badcfe, d := 0x10325476, e := 0xc3d2e1f0 }

/-- RIPEMD-160 of a byte string (R19). -/
def ripemd160 (msg : Bytes) : Bytes :=
  let ws := words32 readLE (padMessage msg (be 8 (8 * msg.length)).reverse)
  let s := foldBlocks rmdBlock ws.length rmdInit ws
  ([s.a, s.b, s.c, s.d, s.e].map fun w => (be 4 w.toNat).reverse).flatten

/-! ### HASH160 and HMAC -/

/-- `HASH160(s) = RIPEMD160(SHA256(s))` (R19). -/
def hash160 (s : Bytes) : Bytes := ripemd160 (sha256 s)

/-- The 64-byte block of an HMAC key (RFC 2104). -/
def hmacKey (key : Bytes) : Bytes :=
  let k := if key.length > 64 then sha256 key else key
  k ++ List.replicate (64 - k.length) 0

/-- `HMAC(K, d)`: HMAC-SHA-256 (R19). -/
def hmac (key d : Bytes) : Bytes :=
  let k := hmacKey key
  sha256 (k.map (· ^^^ 0x5c) ++ sha256 (k.map (· ^^^ 0x36) ++ d))

end Sys2Proof.Machine
end

