-- ==== Sys2Proof/Machine/Ecdsa.lean ====
section
/-!
DEFINITION. The ECDSA unit (42_ecdsa.md R300-R313): the deterministic nonce, signing, verification, and the commands
KLOAD, SIGN and VERIFY.
-/

namespace Sys2Proof.Machine

/-! ### The nonce (R310, R311) -/

/-- The nonce generator: the HMAC_DRBG values K and V (R310). -/
structure NonceGen where
  k : Bytes
  v : Bytes
  deriving DecidableEq, Repr

/-- `nonceInit(e, z)` (R310). -/
def nonceInit (e z : Nat) : NonceGen :=
  let seed := be 32 e ++ be 32 (z % Config.N)
  let k0 := List.replicate 32 0x00
  let v0 := List.replicate 32 0x01
  let k1 := hmac k0 (v0 ++ [0x00] ++ seed)
  let v1 := hmac k1 v0
  let k2 := hmac k1 (v1 ++ [0x01] ++ seed)
  { k := k2, v := hmac k2 v1 }

/-- `V = HMAC(K, V)`, the first line of the loop of `nonceNext`: the new V is the next candidate (R310). -/
def nonceDraw (g : NonceGen) : NonceGen := { k := g.k, v := hmac g.k g.v }

/-- The candidate `int_be(V)` of a generator that has drawn (R310). -/
def nonceCandidate (g : NonceGen) : Nat := intBe g.v

/-- The update between two candidates, whatever rejected the first one (R310's last two lines, R311). -/
def nonceUpdate (g : NonceGen) : NonceGen :=
  let k' := hmac g.k (g.v ++ [0x00])
  { k := k', v := hmac k' g.v }

/-- The generator that has drawn candidate number `n`, counted from 0, for `g` before its first draw (R310, R311). -/
def nonceAt (g : NonceGen) : Nat → NonceGen
  | 0 => nonceDraw g
  | n + 1 => nonceDraw (nonceUpdate (nonceAt g n))

/-! ### Signing (R303, R304) -/

/-- `lowS(s)` (R304). -/
def lowS (s : Nat) : Nat := if s > Config.N / 2 then Config.N - s else s

/-- One turn of the loop of R303 with candidate `k`: the signature, or nothing when the candidate is rejected by its range
(R310), by r = 0 or by s = 0. DEDUCED (log entry 15), safe: R303 says that k·G is a point, so its other cases never occur. -/
def signWith (e z k : Nat) : Option (Nat × Nat) :=
  if 1 ≤ k ∧ k < Config.N then
    match pmul k genG secp with
    | .ok (.aff x _) =>
      let r := x % Config.N
      let s := fmul (fadd (fmul r e Config.N) (z % Config.N) Config.N) (modexp k (Config.N - 2) Config.N) Config.N
      if r = 0 ∨ s = 0 then none else some (r, lowS s)
    | .ok .inf => none
    | .error _ => none
  else none

/-- The loop of R303 with at most `fuel` turns left: the signature of the first accepted candidate. -/
def signLoop (e z : Nat) : Nat → NonceGen → Option (Nat × Nat)
  | 0, _ => none
  | fuel + 1, g =>
    match signWith e z (nonceCandidate (nonceDraw g)) with
    | some rs => some rs
    | none => signLoop e z fuel (nonceUpdate (nonceDraw g))

/-- The loop of R303 from `nonceInit`, with no cap (R313): `none` only where no candidate is ever accepted, since
`Config.nonceStates` turns meet every generator (Laws/Sign.lean; log entry 8). -/
def signRfc (e z : Nat) : Option (Nat × Nat) := signLoop e z Config.nonceStates (nonceInit e z)

/-- The signature where N divides the secret and no nonce is accepted: free in the limits of R303 and R304 (log entry 16). -/
def signOpen (fn : NonceFn) (e z : Nat) : Nat × Nat :=
  let x := Config.noSignature fn e (z % Config.N)
  (1 + x.1 % (Config.N - 1), 1 + x.2 % ((Config.N - 1) / 2))

/-- The signature of an accepted nonce that is free (log entries 8, 9). Where the free value is not accepted itself, 1 or 2
is, unless N divides the secret. -/
def signFree (fn : NonceFn) (e z : Nat) : Nat × Nat :=
  (((signWith e z (Config.freeNonce fn e (z % Config.N))).or (signWith e z 1)).or (signWith e z 2)).getD (signOpen fn e z)

/-- `sign(e, z)` (R303) with the nonce function `fn` (R10). -/
def signDigest (fn : NonceFn) (e z : Nat) : Nat × Nat :=
  match fn with
  | .other => signFree .other e z
  | .rfc6979 =>
    (signRfc e z).getD (signFree .rfc6979 e z)

/-! ### Verification (R306) -/

/-- `T = padd(pmul(u, G), pmul(v, pub))` of R306. -/
def verifyPoint (pub : Pt) (u v : Nat) : Except Err Pt := do
  let p1 ← pmul u genG secp
  let p2 ← pmul v pub secp
  padd p1 p2 secp

/-- `verify(pub, z, r, s)` (R306). DEDUCED (log entry 15), safe: R306 says that no step can raise; a point that does
would verify nothing. -/
def verifySig (pub : Pt) (z r s : Nat) : Bool :=
  if r = 0 ∨ r ≥ Config.N ∨ s = 0 ∨ s ≥ Config.N then false
  else
    let sinv := modexp s (Config.N - 2) Config.N
    match verifyPoint pub (fmul (z % Config.N) sinv Config.N) (fmul r sinv Config.N) with
    | .ok (.aff x _) => x % Config.N = r
    | .ok .inf => false
    | .error _ => false

/-! ### Commands -/

/-- The x coordinate of a point, 0 for the point at infinity, which has none. -/
def Pt.xOr0 : Pt → Nat
  | .inf => 0
  | .aff x _ => x

/-- The y coordinate of a point, 0 for the point at infinity, which has none. -/
def Pt.yOr0 : Pt → Nat
  | .inf => 0
  | .aff _ y => y

/-- The writes of KLOAD (R301), in its order. -/
def State.loadKey (s : State) (rd : RegIdx) (e : Nat) (pub : Pt) : State :=
  State.setQ { s with ksec := toW e, kpubx := toW pub.xOr0, kpuby := toW pub.yOr0, kv := true } rd (pointReg .secp pub)

/-- KLOAD (R301). DEDUCED (log entry 15), safe: the public point is never INF (R301). -/
def execKload (rd ra : RegIdx) (s : State) : Result :=
  s.command do
    let e ← s.rint ra
    if e = 0 ∨ e ≥ Config.N then .error .invalidNum
    else do
      let pub ← pmul e genG secp
      .ok (s.loadKey rd e pub)

/-- SIGN (R302). RD = RB is an illegal word (R147). -/
def execSign (rd ra rb : RegIdx) (s : State) : Result :=
  s.command (if rd = rb then .error .illegalCmd else do
    let z ← s.rint ra
    if s.kv = false then .error .noKey
    else .ok ((s.setInt rd (signDigest s.params.nonce s.ksec.toNat z).1).setInt rb
      (signDigest s.params.nonce s.ksec.toNat z).2))

/-- VERIFY (R305): the verdict is a register value. -/
def execVerify (rd ra rb rc re : RegIdx) (s : State) : Result :=
  s.command do
    let (pub, c) ← s.qpt ra
    let z ← s.rint rb
    let r ← s.rint rc
    let t ← s.rint re
    if s.curveOf c ≠ secp then .error .curveMismatch
    else .ok (s.setInt rd (verifySig pub z r t).toNat)

end Sys2Proof.Machine
end

