-- ==== Sys2Proof/Machine/Script.lean ====
section
/-!
DEFINITION. The script unit (44_script.md R400-R421): parsing, the five opcodes and Push over the stack, evaluation, the
commands SPARSE and SEVAL, and the meanings of the six script commands in a state that holds an evaluation.
-/

namespace Sys2Proof.Machine

/-- A stack (R401). Its FIRST element is the top. -/
abbrev Stack := List Bytes

/-! ### Parsing (R402-R404) -/

/-- The error `parse` raises where no script command can be read (R402). -/
def parseErr : Reject → Err
  | .truncatedPush => .cannotParse
  | .invalidOpcode => .invalidOpcode
  | .noByte | .trailingBytes | .reservedOpcode | .unusedField | .reservedMode | .sameDestination => .cannotParse

/-- The loop of `parse(d)` (R402), for a byte string of at most `fuel` bytes: every turn consumes at least one. -/
def parseLoop : Nat → Bytes → Except Err (List ScriptCmd)
  | _, [] => .ok []
  | 0, _ :: _ => .error .cannotParse
  | fuel + 1, b :: d =>
    match decodeScriptCmd (b :: d) with
    | .error e => .error (parseErr e)
    | .ok (c, rest) => do
      let cs ← parseLoop fuel rest
      .ok (c :: cs)

/-- `parse(d)` (R402). -/
def parseScript (d : Bytes) : Except Err (List ScriptCmd) := parseLoop d.length d

/-- `serialize(cmds)` (R403): a function of the spec, not a command. -/
def serializeScript (cmds : List ScriptCmd) : Bytes := (cmds.map ScriptCmd.bytes).flatten

/-- `combine(a, b)` (R404). -/
def combineScripts (a b : List ScriptCmd) : List ScriptCmd := a ++ b

/-! ### The script commands over the stack (R414-R419): `none` where the rule says fail -/

/-- The truthy or falsy element of a test (R416, R419). -/
def truth (b : Bool) : Bytes := if b then [0x01] else []

/-- Push(d) (R414). -/
def stackPush (d : Bytes) (st : Stack) : Option Stack := some (d :: st)

/-- OP_DUP (R415). -/
def stackDup : Stack → Option Stack
  | [] => none
  | x :: st => some (x :: x :: st)

/-- OP_EQUAL (R416). -/
def stackEqual : Stack → Option Stack
  | [] => none
  | [_] => none
  | a :: b :: st => some (truth (a = b) :: st)

/-- OP_EQUALVERIFY (R417). -/
def stackEqualverify : Stack → Option Stack
  | [] => none
  | [_] => none
  | a :: b :: st => if a = b then some st else none

/-- OP_HASH160 (R418). -/
def stackHash160 : Stack → Option Stack
  | [] => none
  | x :: st => some (hash160 x :: st)

/-- The sighash marker is accepted (R419, `SIGHASH_POLICY`). -/
def markerOk (policy : SighashPolicy) (sig : Bytes) : Bool :=
  match policy with
  | .require01 => sig.getLast? = some 0x01
  | .ignoreMarker => true

/-- The check of OP_CHECKSIG on public-key and signature bytes: `none` on a parse failure, else the verdict (R419). -/
def checkSig (policy : SighashPolicy) (z : Nat) (pk sig : Bytes) : Option Bool :=
  if sig.length = 0 then none
  else if markerOk policy sig = false then none
  else match secDec pk with
    | .error _ => none
    | .ok (x, y) =>
      match derDec sig.dropLast with
      | .error _ => none
      | .ok (r, s) => some (verifySig (.aff x y) z r s)

/-- OP_CHECKSIG (R419): the public key is popped first, then the signature. -/
def stackChecksig (policy : SighashPolicy) (z : Nat) : Stack → Option Stack
  | [] => none
  | [_] => none
  | pk :: sig :: st => (checkSig policy z pk sig).map fun v => truth v :: st

/-- `step(cmd, st, z)` of R413. -/
def stackStep (policy : SighashPolicy) (z : Nat) (st : Stack) : ScriptCmd → Option Stack
  | .push d => stackPush d st
  | .op .dup => stackDup st
  | .op .equal => stackEqual st
  | .op .equalverify => stackEqualverify st
  | .op .hash160 => stackHash160 st
  | .op .checksig => stackChecksig policy z st

/-- The loop of `eval` over the commands that are left (R413): the final stack, or `none` where a command failed. -/
def runStack (policy : SighashPolicy) (z : Nat) : List ScriptCmd → Stack → Option Stack
  | [], st => some st
  | c :: cs, st =>
    match stackStep policy z st c with
    | none => none
    | some st' => runStack policy z cs st'

/-- `|st| > 0 and |top(st)| > 0` (R413). -/
def stackTrue : Stack → Bool
  | [] => false
  | x :: _ => 0 < x.length

/-- The result of evaluating `cmds` on a stack (R413): a failure gives false. -/
def evalFrom (policy : SighashPolicy) (z : Nat) (cmds : List ScriptCmd) (st : Stack) : Bool :=
  match runStack policy z cmds st with
  | none => false
  | some st' => stackTrue st'

/-- `eval(cmds, z)` (R413): each evaluation starts with an empty stack (R410). -/
def evalScript (policy : SighashPolicy) (cmds : List ScriptCmd) (z : Nat) : Bool := evalFrom policy z cmds []

/-! ### The commands SPARSE and SEVAL -/

/-- SPARSE (R421). -/
def execSparse (rd ra rb : RegIdx) (s : State) : Result :=
  s.command do
    let addr ← s.rint ra
    let n ← s.rint rb
    rangeCheck addr n
    let cmds ← parseScript (s.memRead addr n)
    .ok (s.setInt rd cmds.length)

/-- SEVAL (R420): the whole evaluation is one atomic step (R620; log entry 6). -/
def execSeval (rd ra rb rc re rz : RegIdx) (s : State) : Result :=
  s.command do
    let aA ← s.rint ra
    let nA ← s.rint rb
    let aB ← s.rint rc
    let nB ← s.rint re
    let z ← s.rint rz
    rangeCheck aA nA
    rangeCheck aB nB
    let cA ← parseScript (s.memRead aA nA)
    let cB ← parseScript (s.memRead aB nB)
    .ok (s.setInt rd (evalScript s.params.sighash (combineScripts cA cB) z).toNat)

/-! ### The script commands as instructions (log entries 6, 7) -/

/-- SEVAL's completion with a verdict (R413, R420). -/
def State.finishEval (s : State) (ev : Eval) (verdict : Bool) : State :=
  s.complete (.ok (s.setInt ev.rd verdict.toNat))

/-- One command of the evaluation in progress, `f` its effect on the stack (R413): pc advances by one (R411); where the
command fails, SEVAL completes at once with verdict 0 (R413, R507). -/
def State.scriptStep (s : State) (f : Eval → Option Stack) : Result :=
  match s.eval with
  | none => .fault .noEvaluation
  | some ev =>
    match f ev with
    | none => .next (s.finishEval ev false)
    | some st => .next { s with eval := some { ev with stack := st, pc := ev.pc + 1 } }

/-- PUSH (R414). -/
def execPush (d : Bytes) (s : State) : Result := s.scriptStep fun ev => stackPush d ev.stack

/-- OP_DUP (R415). -/
def execOpDup (s : State) : Result := s.scriptStep fun ev => stackDup ev.stack

/-- OP_EQUAL (R416). -/
def execOpEqual (s : State) : Result := s.scriptStep fun ev => stackEqual ev.stack

/-- OP_EQUALVERIFY (R417). -/
def execOpEqualverify (s : State) : Result := s.scriptStep fun ev => stackEqualverify ev.stack

/-- OP_HASH160 (R418). -/
def execOpHash160 (s : State) : Result := s.scriptStep fun ev => stackHash160 ev.stack

/-- OP_CHECKSIG (R419). -/
def execOpChecksig (s : State) : Result :=
  s.scriptStep fun ev => stackChecksig s.params.sighash ev.z.toNat ev.stack

end Sys2Proof.Machine
end

