-- ==== Sys2Proof/Machine/System.lean ====
section
/-!
DEFINITION. The register moves and system commands (45_system.md R460-R464).
-/

namespace Sys2Proof.Machine

/-- NOP (R460). -/
def execNop (s : State) : Result := s.command (.ok s)

/-- RMOV (R461): tag and value are copied. -/
def execRmov (rd ra : RegIdx) (s : State) : Result :=
  s.command (if (s.getR ra).tag = .empty then .error .unwritten
    else .ok (s.setR rd (s.getR ra).tag (s.getR ra).val))

/-- QMOV (R462): kind, curve tag and coordinates are copied. -/
def execQmov (rd ra : RegIdx) (s : State) : Result :=
  s.command (if s.getQ ra = .empty then .error .unwritten else .ok (s.setQ rd (s.getQ ra)))

/-- RCLR (R463). -/
def execRclr (rd : RegIdx) (s : State) : Result := s.command (.ok (s.setR rd .empty 0))

/-- QCLR (R464). -/
def execQclr (rd : RegIdx) (s : State) : Result := s.command (.ok (s.setQ rd .empty))

end Sys2Proof.Machine
end

