-- ==== Sys2Proof/Machine/Dispatch.lean ====
section
/-!
DEFINITION. The dispatch: one arm per constructor of Instr, each one direct call of that instruction's meaning.
-/

namespace Sys2Proof.Machine

/-- What an instruction does: a command's engine step (R502, R620), or one command of the evaluation in progress (R413). -/
def exec (i : Instr) (s : State) : Host.Outcome State Fault Refusal :=
  match i with
  | .nop => Sys2Proof.Machine.execNop s
  | .rmov rd ra => Sys2Proof.Machine.execRmov rd ra s
  | .qmov rd ra => Sys2Proof.Machine.execQmov rd ra s
  | .rclr rd => Sys2Proof.Machine.execRclr rd s
  | .qclr rd => Sys2Proof.Machine.execQclr rd s
  | .mset ra => Sys2Proof.Machine.execMset ra s
  | .fnew rd ra mode => Sys2Proof.Machine.execFnew rd ra mode s
  | .fred rd ra mode => Sys2Proof.Machine.execFred rd ra mode s
  | .fadd rd ra rb => Sys2Proof.Machine.execFadd rd ra rb s
  | .fsub rd ra rb => Sys2Proof.Machine.execFsub rd ra rb s
  | .fmul rd ra rb => Sys2Proof.Machine.execFmul rd ra rb s
  | .fdiv rd ra rb => Sys2Proof.Machine.execFdiv rd ra rb s
  | .finv rd ra => Sys2Proof.Machine.execFinv rd ra s
  | .fpow rd ra rb => Sys2Proof.Machine.execFpow rd ra rb s
  | .cset ra rb => Sys2Proof.Machine.execCset ra rb s
  | .pnew rd ra rb mode => Sys2Proof.Machine.execPnew rd ra rb mode s
  | .pinf rd mode => Sys2Proof.Machine.execPinf rd mode s
  | .padd rd ra rb => Sys2Proof.Machine.execPadd rd ra rb s
  | .pdbl rd ra => Sys2Proof.Machine.execPdbl rd ra s
  | .pmul rd ra rb => Sys2Proof.Machine.execPmul rd ra rb s
  | .kload rd ra => Sys2Proof.Machine.execKload rd ra s
  | .sign rd ra rb => Sys2Proof.Machine.execSign rd ra rb s
  | .verify rd ra rb rc re => Sys2Proof.Machine.execVerify rd ra rb rc re s
  | .secenc rd ra rb mode => Sys2Proof.Machine.execSecenc rd ra rb mode s
  | .secdec rd ra rb => Sys2Proof.Machine.execSecdec rd ra rb s
  | .derenc rd ra rb rc => Sys2Proof.Machine.execDerenc rd ra rb rc s
  | .derdec rd ra rb rc => Sys2Proof.Machine.execDerdec rd ra rb rc s
  | .sparse rd ra rb => Sys2Proof.Machine.execSparse rd ra rb s
  | .seval rd ra rb rc re rz => Sys2Proof.Machine.execSeval rd ra rb rc re rz s
  | .push d => Sys2Proof.Machine.execPush d s
  | .opDup => Sys2Proof.Machine.execOpDup s
  | .opEqual => Sys2Proof.Machine.execOpEqual s
  | .opEqualverify => Sys2Proof.Machine.execOpEqualverify s
  | .opHash160 => Sys2Proof.Machine.execOpHash160 s
  | .opChecksig => Sys2Proof.Machine.execOpChecksig s

end Sys2Proof.Machine
end

