-- ==== Sys2Proof/Machine/Flags.lean ====
section
/-!
DEFINITION. Every status word the block computes: ERRCODE (60_exceptions.md R501), STATUS (10_state.md R62), the tag and
info words (R64-R66), IRQ (60_exceptions.md R520). The block has no condition codes (R73).
-/

namespace Sys2Proof.Machine

/-- The code of an error (R501). -/
def Err.code : Err → Nat
  | .invalidNum => 0x01
  | .invalidPrime => 0x02
  | .notOnCurve => 0x03
  | .cannotParse => 0x04
  | .invalidOpcode => 0x05
  | .divisionByZero => 0x06
  | .illegalCmd => 0x10
  | .unwritten => 0x11
  | .tag => 0x12
  | .noUserField => 0x13
  | .noUserCurve => 0x14
  | .noKey => 0x15
  | .bufRange => 0x16
  | .capacity => 0x17
  | .fieldMismatch => 0x20
  | .curveMismatch => 0x21

/-- ERRCODE, with NONE as 0 (R501). -/
def errcodeValue : Option Err → Nat
  | none => 0
  | some e => e.code

/-- The STATUS word (R62). Reserved bits are 0. -/
def State.statusWord (s : State) : Word32 :=
  BitVec.ofNat 32 (s.busy.toNat + 2 * s.done.toNat + 4 * s.err.toNat + 8 * s.fatal.toNat + 16 * s.wdrop.toNat
    + 256 * errcodeValue s.errcode)

/-- The CTRL word (R61): SRST and the reserved bits read 0. -/
def State.ctrlWord (s : State) : Word32 := BitVec.ofNat 32 s.ie.toNat

/-- The INFO word (R66). -/
def State.infoWord (s : State) : Word32 :=
  BitVec.ofNat 32 (s.umv.toNat + 2 * s.ucv.toNat + 4 * s.kv.toNat)

/-- The tag code (R31). -/
def Tag.code : Tag → Nat
  | .empty => 0
  | .int => 1
  | .field .p => 2
  | .field .n => 3
  | .field .user => 4

/-- The curve bit of an info nibble (R65). -/
def curveBit : CurveSel → Nat
  | .secp => 0
  | .user => 1

/-- The info nibble of a Q register (R65): kind in bits 1:0, curve in bit 2. -/
def QReg.nibble : QReg → Nat
  | .empty => 0
  | .inf c => 1 + 4 * curveBit c
  | .coord c _ _ => 2 + 4 * curveBit c

/-- Eight nibbles as one word, nibble 0 in bits 3:0 (R64, R65). -/
def packNibbles : List Nat → Nat
  | [] => 0
  | n :: ns => n + 16 * packNibbles ns

/-- RTAG0 and RTAG1: the tag codes of R[8h] to R[8h+7] (R64). -/
def State.rtagWord (s : State) (h : Nat) : Word32 :=
  BitVec.ofNat 32 (packNibbles (((s.r.toList.drop (8 * h)).take 8).map fun x => x.tag.code))

/-- QINFO0 and QINFO1: the info nibbles of Q[8h] to Q[8h+7] (R65). -/
def State.qinfoWord (s : State) (h : Nat) : Word32 :=
  BitVec.ofNat 32 (packNibbles (((s.q.toList.drop (8 * h)).take 8).map QReg.nibble))

/-- The IRQ output, a level (R520). -/
def State.irq (s : State) : Bool := s.ie && s.done

end Sys2Proof.Machine
end

