-- ==== Sys2Proof/Machine/Port.lean ====
section
/-!
DEFINITION. The host port: the register map of 10_state.md section 7 and what a host read and a host write of each place
do (R60-R71; 20_memory.md R102-R108).
-/

namespace Sys2Proof.Machine

/-- The places of the host register map (10_state.md section 7). `j` is a word of a 256-bit value, `h` a half of a
register file, `k` a word of BUF. -/
inductive Place where
  | id
  | ctrl
  | status
  | cmd
  | rtag (h : Nat)
  | qinfo (h : Nat)
  | info
  | um (j : Nat)
  | ua (j : Nat)
  | ub (j : Nat)
  | kpubx (j : Nat)
  | kpuby (j : Nat)
  | rwin (i : RegIdx) (j : Nat)
  | qx (i : RegIdx) (j : Nat)
  | qy (i : RegIdx) (j : Nat)
  | bufw (k : Nat)
  | reserved
  deriving DecidableEq, Repr

/-- The place at word number `n`, that is at offset 4n, of the Q window (R69). -/
def qPlace (n : Nat) : Place :=
  let i := Fin.ofNat 16 ((n - 0x100) / 32)
  let j := (n - 0x100) % 32
  if j < 8 then .qx i j else if j < 16 then .qy i (j - 8) else .reserved

/-- The place at word number `n`, that is at offset 4n (10_state.md section 7). -/
def placeAt (n : Nat) : Place :=
  if n = 0 then .id
  else if n = 1 then .ctrl
  else if n = 2 then .status
  else if n = 3 then .cmd
  else if n < 6 then .rtag (n - 4)
  else if n < 8 then .qinfo (n - 6)
  else if n = 8 then .info
  else if n < 0x10 then .reserved
  else if n < 0x18 then .um (n - 0x10)
  else if n < 0x20 then .ua (n - 0x18)
  else if n < 0x28 then .ub (n - 0x20)
  else if n < 0x30 then .kpubx (n - 0x28)
  else if n < 0x38 then .kpuby (n - 0x30)
  else if n < 0x40 then .reserved
  else if n < 0xC0 then .rwin (Fin.ofNat 16 ((n - 0x40) / 8)) ((n - 0x40) % 8)
  else if n < 0x100 then .reserved
  else if n < 0x300 then qPlace n
  else if n < 0x400 then .reserved
  else if n < 0x800 then .bufw (n - 0x400)
  else .reserved

/-- Word `j` of a 256-bit value: bits 32j+31:32j (R67, R68, R108). -/
def wordOf256 (v : W256) (j : Nat) : Word32 := BitVec.ofNat 32 (v.toNat / 2 ^ (32 * j))

/-- A 256-bit value with word `j` replaced (R68, R108). -/
def setWord256 (v : W256) (j : Nat) (x : Word32) : W256 :=
  toW (v.toNat % 2 ^ (32 * j) + 2 ^ (32 * j) * x.toNat + 2 ^ (32 * (j + 1)) * (v.toNat / 2 ^ (32 * (j + 1))))

/-- The value words of an R register as the host reads them: 0 when EMPTY (R35, R68). -/
def RReg.hostVal (x : RReg) : W256 := if x.tag = .empty then 0 else x.val

/-- The x coordinate as the host reads it: 0 unless COORD (R69). -/
def QReg.hostX : QReg → W256
  | .coord _ x _ => x
  | .inf _ => 0
  | .empty => 0

/-- The y coordinate as the host reads it: 0 unless COORD (R69). -/
def QReg.hostY : QReg → W256
  | .coord _ _ y => y
  | .inf _ => 0
  | .empty => 0

/-- The BUF window word `k`: BUF bytes 4k to 4k+3 in little-endian lanes (R107). -/
def State.bufWord (s : State) (k : Nat) : Word32 :=
  BitVec.ofNat 32 ((s.readByte (4 * k)).toNat + 2 ^ 8 * (s.readByte (4 * k + 1)).toNat
    + 2 ^ 16 * (s.readByte (4 * k + 2)).toNat + 2 ^ 24 * (s.readByte (4 * k + 3)).toNat)

/-- The four bytes of a word in little-endian lanes (R107). -/
def laneBytes (v : Word32) : Bytes :=
  [BitVec.ofNat 8 v.toNat, BitVec.ofNat 8 (v.toNat / 2 ^ 8), BitVec.ofNat 8 (v.toNat / 2 ^ 16),
    BitVec.ofNat 8 (v.toNat / 2 ^ 24)]

/-- The word a host read of a place returns (R60-R70, R104). While BUSY = 1 this is the pre-command value (R117),
because a command changes nothing before its completion. -/
def State.portRead (s : State) : Place → Word32
  | .id => Config.idValue
  | .ctrl => s.ctrlWord
  | .status => s.statusWord
  | .cmd => s.lastcmd
  | .rtag h => s.rtagWord h
  | .qinfo h => s.qinfoWord h
  | .info => s.infoWord
  | .um j => wordOf256 s.um j
  | .ua j => wordOf256 s.ua j
  | .ub j => wordOf256 s.ub j
  | .kpubx j => wordOf256 s.kpubx j
  | .kpuby j => wordOf256 s.kpuby j
  | .rwin i j => wordOf256 (s.getR i).hostVal j
  | .qx i j => wordOf256 (s.getQ i).hostX j
  | .qy i j => wordOf256 (s.getQ i).hostY j
  | .bufw k => s.bufWord k
  | .reserved => 0

/-- A host write to CTRL (R61, R602): bit 1 is a soft reset at once, whatever bit 0 holds; else bit 0 is IE. -/
def State.writeCtrl (s : State) (v : Word32) : State :=
  if v.getLsbD 1 then s.softReset else { s with ie := v.getLsbD 0 }

/-- A host write to CMD (R63): accepted when BUSY = 0 and FATAL = 0, else dropped. -/
def State.writeCmd (s : State) (w : Word32) : State :=
  if s.busy || s.fatal then s.dropWrite else s.accept w

/-- A host write to word `j` of R[i] (R33, R68, R71): INT afterwards; the other words of an EMPTY register become 0. -/
def State.writeRWord (s : State) (i : RegIdx) (j : Nat) (v : Word32) : State :=
  if s.busy then s.dropWrite else s.setR i .int (setWord256 (s.getR i).hostVal j v)

/-- A host write to BUF window word `k` (R70, R71, R107). -/
def State.writeBufWord (s : State) (k : Nat) (v : Word32) : State :=
  if s.busy then s.dropWrite else s.memWrite (4 * k) (laneBytes v)

/-- A host write of `v` to a place (R61-R71, R104). -/
def State.portWrite (s : State) (p : Place) (v : Word32) : State :=
  match p with
  | .ctrl => s.writeCtrl v
  | .status => s.writeStatus v
  | .cmd => s.writeCmd v
  | .rwin i j => s.writeRWord i j v
  | .bufw k => s.writeBufWord k v
  | .id | .rtag _ | .qinfo _ | .info => s
  | .um _ | .ua _ | .ub _ | .kpubx _ | .kpuby _ => s
  | .qx _ _ | .qy _ _ | .reserved => s

/-- The place a word offset names. -/
def placeOf (off : WordOff) : Place := placeAt off.toNat

/-- A host read (R102, R106): no side effect; the word is left in `rdata`, the model's port register (log entry 4). -/
def State.hostRead (s : State) (off : WordOff) : State := { s with rdata := s.portRead (placeOf off) }

/-- A host write (R102). -/
def State.hostWrite (s : State) (off : WordOff) (v : Word32) : State := s.portWrite (placeOf off) v

end Sys2Proof.Machine
end

