-- ==== Sys2Proof/Machine/Engine.lean ====
section
/-!
DEFINITION. The engine step and the events of the schedule (70_reset_and_hazards.md R600, R602, R620), and how a word
comes to be the next instruction (log entry 5).
-/

namespace Sys2Proof.Machine

/-- The engine's step on a pending command word that no evaluation belongs to: the word's instruction, or ILLEGAL_CMD
for a word that has none (R147, R148, R620). -/
def State.runPending (s : State) (w : Word32) : Result :=
  match decodeCmd w with
  | .ok i => exec i s
  | .error _ => s.command (.error .illegalCmd)

/-- The engine's step inside an evaluation: the script command at pc, or the end of the evaluation (R411, R413). No run
from reset reaches such a state, because SEVAL is one atomic step (log entry 6). -/
def State.runEval (s : State) (ev : Eval) : Result :=
  match ev.cmds[ev.pc]? with
  | some c => exec c.toInstr s
  | none => .next (s.finishEval ev (stackTrue ev.stack))

/-- The engine step (R620), enabled exactly when BUSY = 1; an idle block keeps its state (R535). -/
def State.engineStep (s : State) : Result :=
  match s.pending with
  | none => .next s
  | some w =>
    match s.eval with
    | none => s.runPending w
    | some ev => s.runEval ev

/-- One event of the schedule (log entry 3): a host access (R102), a grant to the engine (R620), a power-on reset (R600). -/
def State.runEvent (s : State) : Event → Result
  | .read off => .next (s.hostRead off)
  | .write off v => .next (s.hostWrite off v)
  | .engine => s.engineStep
  | .powerOn => .next s.powerOn

/-- The engine is granted the next step, before anything else that is scheduled. With nothing scheduled it has it already. -/
def State.grantEngine (s : State) : State :=
  { s with schedule := if s.schedule = [] then [] else .engine :: s.schedule }

/-- `w` is the pending command, as after its acceptance (R63), and the engine has the next step. -/
def State.placeCommand (s : State) (w : Word32) : State :=
  State.grantEngine { s.accept w with eval := none }

/-- The script byte string's first command is the next one of an evaluation of that one command, on an empty stack, with
digest 0 and verdict register R0. Where the bytes hold no script command, a pending SPARSE of the first byte from BUF is
the only thing that reads them (log entry 5). -/
def State.placeScript (s : State) (bs : Bytes) : State :=
  match decodeScriptCmd bs with
  | .ok (c, _) =>
    State.grantEngine
      { s.accept (wordOf { opc := 0x51, rd := 0, ra := 0, rb := 0, rc := 0, re := 0, mode := 0 }) with
        eval := some { cmds := [c], pc := 0, stack := [], z := 0, rd := 0 } }
  | .error _ =>
    (((s.memWrite 0 (bs.take 1)).setInt 0 0).setInt 1 1).placeCommand
      (wordOf { opc := 0x50, rd := 2, ra := 0, rb := 1, rc := 0, re := 0, mode := 0 })

end Sys2Proof.Machine
end

