-- ==== Sys2Proof/Machine/Step.lean ====
section
/-!
DEFINITION. One step of the machine: the next event of the schedule; with nothing scheduled, the engine (R22, R620).
-/

namespace Sys2Proof.Machine

/-- One step. Every interleaving of host steps and engine steps (R620) is the run of some schedule (log entry 3). -/
def step (s : State) : Host.Outcome State Fault Refusal :=
  match s.schedule with
  | [] => s.engineStep
  | e :: es => State.runEvent { s with schedule := es } e

/-- `s` with the instruction whose first `nbits` bits are `w` as the one the next step runs: a command word is the pending
command, as after the host's CMD write; a script row is the next command of an evaluation (log entry 5). -/
def State.withFetchWord (s : State) (nbits w : Nat) : State :=
  if nbits ≤ 8 then s.placeScript (tableScriptBytes w) else s.placeCommand (BitVec.ofNat 32 w)

end Sys2Proof.Machine
end

