-- ==== Sys2Proof/Safety.lean ====
section
/-!
DEFINITION. What the statements are about beyond the machine itself: the invariants of the state (10_state.md R31, R46-R48;
20_memory.md R100; 10_state.md R62, R63, R72), what a step leaves unchanged, which command words are illegal (written from
the tables of 30_encoding.md R142, R144, R146, R147, not from the decoder), and two views of the state.
-/

namespace Sys2Proof.Machine

/-! ### Points -/

/-- The coordinates of a point are below the modulus (R20). -/
def Pt.below (m : Nat) : Pt → Prop
  | .inf => True
  | .aff x y => x < m ∧ y < m

/-- The point is on the curve: INF, or coordinates below the modulus that satisfy the equation (R20, R252). -/
def Pt.isOn (c : Curve) : Pt → Prop
  | .inf => True
  | .aff x y => x < c.m ∧ y < c.m ∧ onCurve x y c = true

/-! ### Invariants -/

/-- An R register keeps its tag's promise (R31, R48): EMPTY holds 0, a field element is below its modulus, FU only while
UMV = 1. -/
def State.regOk (s : State) (x : RReg) : Bool :=
  match x.tag with
  | .empty => x.val = 0
  | .int => true
  | .field f => x.val.toNat < s.fieldOf f && (f ≠ .user || s.umv)

/-- A Q register keeps R48: USER only while UCV = 1, coordinates below the curve's modulus. -/
def State.pointOk (s : State) : QReg → Bool
  | .empty => true
  | .inf c => c ≠ .user || s.ucv
  | .coord c x y => (c ≠ .user || s.ucv) && x.toNat < (s.curveOf c).m && y.toNat < (s.curveOf c).m

/-- The values of the registers, the user field, the user curve and the key are in their ranges (R31, R46, R47, R48, R50,
R301). -/
abbrev State.ValuesOk (s : State) : Prop :=
  (s.umv = true → 1 < s.um.toNat) ∧
  (s.ucv = true → s.umv = true ∧ s.ua.toNat < s.um.toNat ∧ s.ub.toNat < s.um.toNat) ∧
  (∀ i, s.regOk (s.getR i) = true) ∧
  (∀ i, s.pointOk (s.getQ i) = true) ∧
  (s.kv = true → 1 ≤ s.ksec.toNat ∧ s.ksec.toNat < Config.N ∧ s.kpubx.toNat < Config.P ∧ s.kpuby.toNat < Config.P)

/-- Every point over a prime modulus is on its curve (R44). -/
def State.PointsOnCurve (s : State) : Prop :=
  ∀ i p c, s.qpt i = .ok (p, c) → Nat.Prime (s.curveOf c).m → p.isOn (s.curveOf c)

/-- The errors that set FATAL, as ERRCODE shows them (R505). -/
def fatalCode : Option Err → Bool
  | none => false
  | some e => e.isFatal

/-- STATUS, LASTCMD and the pending command agree (R62, R63, R72, R505, R74): ERR says that ERRCODE is not NONE, FATAL that
ERRCODE is a fatal code, a pending command is LASTCMD and has cleared DONE and ERR, an evaluation belongs to a pending
command. -/
abbrev State.StatusOk (s : State) : Prop :=
  s.err = s.errcode.isSome ∧
  s.fatal = fatalCode s.errcode ∧
  (s.pending = none ∨ s.pending = some s.lastcmd) ∧
  (s.busy = true → s.done = false ∧ s.err = false) ∧
  (s.eval ≠ none → s.busy = true)

/-- BUF is in its canonical form (log entry 2). -/
abbrev State.BufOk (s : State) : Prop := s.buf.wf = true

/-! ### What a step leaves unchanged -/

/-- Every R register but those listed. -/
def OnlyRegs (ds : List RegIdx) (s t : State) : Prop := ∀ i, i ∉ ds → t.getR i = s.getR i

/-- Every Q register but those listed. -/
def OnlyPoints (ds : List RegIdx) (s t : State) : Prop := ∀ i, i ∉ ds → t.getQ i = s.getQ i

/-- Every BUF byte. -/
def SameBytes (s t : State) : Prop := ∀ a, t.readByte a = s.readByte a

/-- Every BUF byte outside the `n` bytes at `addr`. -/
def SameBytesOutside (addr n : Nat) (s t : State) : Prop :=
  ∀ a, a < addr ∨ addr + n ≤ a → t.readByte a = s.readByte a

/-- The user field and the user curve (R46, R47). -/
def SameUser (s t : State) : Prop :=
  t.umv = s.umv ∧ t.um = s.um ∧ t.ucv = s.ucv ∧ t.ua = s.ua ∧ t.ub = s.ub

/-- The key store (R50). -/
def SameKey (s t : State) : Prop :=
  t.kv = s.kv ∧ t.ksec = s.ksec ∧ t.kpubx = s.kpubx ∧ t.kpuby = s.kpuby

/-- CTRL, LASTCMD, WDROP, which no command writes (R465, R502), and the model's own fields. -/
def SameControl (s t : State) : Prop :=
  t.ie = s.ie ∧ t.lastcmd = s.lastcmd ∧ t.wdrop = s.wdrop ∧ t.params = s.params ∧ t.schedule = s.schedule ∧
    t.rdata = s.rdata ∧ t.draw = s.draw

/-- What completion does to STATUS and the pending command (R502): DONE is 1, BUSY is 0, and ERR, ERRCODE and FATAL are
unchanged or report one error. -/
def Completed (s t : State) : Prop :=
  t.done = true ∧ t.pending = none ∧ t.eval = none ∧
    ((t.err = s.err ∧ t.errcode = s.errcode ∧ t.fatal = s.fatal) ∨
      ∃ e, t.err = true ∧ t.errcode = some e ∧ t.fatal = (s.fatal || e.isFatal))

/-! ### Illegal command words -/

/-- `w[hi:lo]` (R14). -/
def bitsOf (w : Word32) (hi lo : Nat) : Nat := w.toNat / 2 ^ lo % 2 ^ (hi + 1 - lo)

/-- The reserved OPC values (R146). -/
def reservedOpc (n : Nat) : Prop :=
  (0x05 ≤ n ∧ n ≤ 0x0F) ∨ (0x19 ≤ n ∧ n ≤ 0x1F) ∨ (0x26 ≤ n ∧ n ≤ 0x2F) ∨ (0x33 ≤ n ∧ n ≤ 0x3F) ∨
    (0x44 ≤ n ∧ n ≤ 0x4F) ∨ (0x52 ≤ n ∧ n ≤ 0xFF)

/-- Bits that must be 0 in the command's format are not (R142, with the formats of R146). -/
def unusedNonzero (w : Word32) : Prop :=
  (bitsOf w 7 0 = 0x00 ∧ bitsOf w 31 8 ≠ 0) ∨
  (bitsOf w 7 0 ∈ [0x03, 0x04] ∧ bitsOf w 31 12 ≠ 0) ∨
  (bitsOf w 7 0 = 0x10 ∧ (bitsOf w 31 16 ≠ 0 ∨ bitsOf w 11 8 ≠ 0)) ∨
  (bitsOf w 7 0 = 0x20 ∧ (bitsOf w 31 20 ≠ 0 ∨ bitsOf w 11 8 ≠ 0)) ∨
  (bitsOf w 7 0 ∈ [0x01, 0x02, 0x17, 0x24, 0x30] ∧ bitsOf w 31 16 ≠ 0) ∨
  (bitsOf w 7 0 = 0x22 ∧ bitsOf w 27 12 ≠ 0) ∨
  (bitsOf w 7 0 ∈ [0x13, 0x14, 0x15, 0x16, 0x18, 0x23, 0x25, 0x31, 0x41, 0x50] ∧ bitsOf w 31 20 ≠ 0) ∨
  (bitsOf w 7 0 ∈ [0x11, 0x12] ∧ bitsOf w 27 16 ≠ 0) ∨
  (bitsOf w 7 0 ∈ [0x21, 0x40] ∧ bitsOf w 27 20 ≠ 0) ∨
  (bitsOf w 7 0 ∈ [0x42, 0x43] ∧ bitsOf w 31 24 ≠ 0) ∨
  (bitsOf w 7 0 = 0x32 ∧ bitsOf w 31 28 ≠ 0)

/-- The five conditions of R147. -/
def IllegalWord (w : Word32) : Prop :=
  reservedOpc (bitsOf w 7 0) ∨
  unusedNonzero w ∨
  (bitsOf w 7 0 ∈ [0x11, 0x12] ∧ 3 ≤ bitsOf w 31 28) ∨
  (bitsOf w 7 0 ∈ [0x21, 0x22, 0x40] ∧ 2 ≤ bitsOf w 31 28) ∨
  (bitsOf w 7 0 = 0x31 ∧ bitsOf w 11 8 = bitsOf w 19 16) ∨
  (bitsOf w 7 0 = 0x43 ∧ bitsOf w 11 8 = bitsOf w 23 20)

/-! ### Destinations (R146) -/

/-- The destination of the commands that write one R register and store nothing in BUF (R146, column RD). -/
def oneRDest : Instr → Option RegIdx
  | .rmov rd _ | .rclr rd => some rd
  | .fnew rd _ _ | .fred rd _ _ | .fadd rd _ _ | .fsub rd _ _ | .fmul rd _ _ | .fdiv rd _ _ => some rd
  | .finv rd _ | .fpow rd _ _ | .verify rd _ _ _ _ | .sparse rd _ _ | .seval rd _ _ _ _ _ => some rd
  | .nop | .qmov .. | .qclr .. | .mset .. | .cset .. | .pnew .. | .pinf .. | .padd .. | .pdbl .. | .pmul .. => none
  | .kload .. | .sign .. | .secenc .. | .secdec .. | .derenc .. | .derdec .. => none
  | .push .. | .opDup | .opEqual | .opEqualverify | .opHash160 | .opChecksig => none

/-- The destination of the commands that write one Q register and nothing else (R146, column RD). -/
def oneQDest : Instr → Option RegIdx
  | .qmov rd _ | .qclr rd | .pnew rd _ _ _ | .pinf rd _ | .padd rd _ _ | .pdbl rd _ | .pmul rd _ _ => some rd
  | .secdec rd _ _ => some rd
  | .nop | .rmov .. | .rclr .. | .mset .. | .fnew .. | .fred .. | .fadd .. | .fsub .. | .fmul .. | .fdiv .. => none
  | .finv .. | .fpow .. | .cset .. | .kload .. | .sign .. | .verify .. | .secenc .. | .derenc .. | .derdec .. => none
  | .sparse .. | .seval .. => none
  | .push .. | .opDup | .opEqual | .opEqualverify | .opHash160 | .opChecksig => none

/-- The instruction is a script command (R160). -/
def isScript : Instr → Bool
  | .push .. | .opDup | .opEqual | .opEqualverify | .opHash160 | .opChecksig => true
  | .nop | .rmov .. | .qmov .. | .rclr .. | .qclr .. | .mset .. | .fnew .. | .fred .. | .fadd .. | .fsub .. => false
  | .fmul .. | .fdiv .. | .finv .. | .fpow .. | .cset .. | .pnew .. | .pinf .. | .padd .. | .pdbl .. => false
  | .pmul .. | .kload .. | .sign .. | .verify .. | .secenc .. | .secdec .. | .derenc .. | .derdec .. => false
  | .sparse .. | .seval .. => false

/-- The next scheduled event is a power-on reset (R600) or the host write of a soft reset (R602). -/
def State.resetNext (s : State) : Bool :=
  match s.schedule with
  | .powerOn :: _ => true
  | .write off v :: _ => decide (placeOf off = .ctrl) && v.getLsbD 1
  | .read _ :: _ | .engine :: _ | [] => false

/-! ### Views -/

/-- The word offset of a byte offset of the host register map (R103). -/
def atOffset (off : Nat) : WordOff := BitVec.ofNat 14 (off / 4)

/-- The word a host read at a byte offset returns (R102). -/
def State.readAt (s : State) (off : Nat) : Word32 := s.portRead (placeOf (atOffset off))

/-- The state after a host write at a byte offset (R102). -/
def State.writeAt (s : State) (off : Nat) (v : Word32) : State := s.hostWrite (atOffset off) v

/-- The state with another secret in the key store, for statements about what depends on it (R51). -/
def State.withKsec (s : State) (k : W256) : State := { s with ksec := k }

/-- An answer with another secret in the key store of its next state. -/
def withKsecResult (k : W256) : Result → Result
  | .next t => .next (t.withKsec k)
  | .fault f => .fault f
  | .refused r => .refused r

/-- `n` engine steps, stopping at the first fault or refusal. -/
def engineSteps : Nat → State → Result
  | 0, s => .next s
  | n + 1, s =>
    match s.engineStep with
    | .next t => engineSteps n t
    | .fault f => .fault f
    | .refused r => .refused r

end Sys2Proof.Machine
end

