-- ==== Sys2Proof/Certificates/Slice0/Obligations.lean ====
section
/-!
DEFINITION. The statements for the provers, in the order of OBLIGATIONS.json: encodings, the step, the host port, resets and
status, invariants, frames, the result of every instruction and the errors it raises, the group and field laws, and the
properties the source requires of signatures, codecs and scripts.
-/

section

open Sys2Proof Sys2Proof.Machine

/-! ### Encodings -/

/-- Decoding the code of a well-formed instruction gives the instruction back (R141, R146, R160-R162). -/
def Obligations.DecodeInvertsEncode : Prop :=
  ∀ i : Instr, i.wellFormed = true → decode (encode i) = .ok i

/-- Every code has at most one instruction, and that instruction's code is it (R140, R142, R160). -/
def Obligations.EncodeInvertsDecode : Prop :=
  ∀ (c : Code) (i : Instr), decode c = .ok i → i.wellFormed = true ∧ encode i = c

/-- The illegal words are exactly those of the five conditions; an illegal pending word raises ILLEGAL_CMD and writes
nothing; NOP has one word (R147). -/
def Obligations.IllegalWordsRaiseIllegalCmd : Prop :=
  ∀ w : Word32,
    ((∃ e, decodeCmd w = .error e) ↔ IllegalWord w) ∧
    (decodeCmd w = .ok .nop ↔ w = 0) ∧
    ∀ s : State, IllegalWord w → s.pending = some w → s.eval = none → s.engineStep =
      .next { s with
        done := true, pending := none, eval := none, err := true, errcode := some .illegalCmd, fatal := s.fatal }

/-- What the first byte of a script command decides (R160-R163), and the error of a script that begins with a byte that
begins none (R163, R402). -/
def Obligations.ScriptFirstByteDecides : Prop :=
  ∀ (b : Byte) (rest : Bytes),
    (1 ≤ b.toNat → b.toNat ≤ 0x4B → b.toNat ≤ rest.length →
      decodeScriptCmd (b :: rest) = .ok (.push (rest.take b.toNat), rest.drop b.toNat)) ∧
    (1 ≤ b.toNat → b.toNat ≤ 0x4B → rest.length < b.toNat → parseScript (b :: rest) = .error .cannotParse) ∧
    decodeScriptCmd (0x76 :: rest) = .ok (.op .dup, rest) ∧
    decodeScriptCmd (0x87 :: rest) = .ok (.op .equal, rest) ∧
    decodeScriptCmd (0x88 :: rest) = .ok (.op .equalverify, rest) ∧
    decodeScriptCmd (0xA9 :: rest) = .ok (.op .hash160, rest) ∧
    decodeScriptCmd (0xAC :: rest) = .ok (.op .checksig, rest) ∧
    (b.toNat = 0x00 ∨ (0x4C ≤ b.toNat ∧ b.toNat ≤ 0x75) ∨ (0x77 ≤ b.toNat ∧ b.toNat ≤ 0x86) ∨
        (0x89 ≤ b.toNat ∧ b.toNat ≤ 0xA8) ∨ b.toNat = 0xAA ∨ b.toNat = 0xAB ∨ 0xAD ≤ b.toNat →
      parseScript (b :: rest) = .error .invalidOpcode)

/-- Words and script bytes written out from R141, R146 and R160-R162 decode to the instructions they stand for. -/
def Obligations.ExampleWordsDecode : Prop :=
  decodeCmd 0x00000000 = .ok .nop ∧
  decodeCmd 0x00032113 = .ok (.fadd 1 2 3) ∧
  decodeCmd 0x00002111 = .ok (.fnew 1 2 .p) ∧
  decodeCmd 0x20005411 = .ok (.fnew 4 5 .user) ∧
  decodeCmd 0x00021021 = .ok (.pnew 0 1 2 .secp) ∧
  decodeCmd 0x00001225 = .ok (.pmul 2 1 0) ∧
  decodeCmd 0x00000130 = .ok (.kload 1 0) ∧
  decodeCmd 0x00031231 = .ok (.sign 2 1 3) ∧
  decodeCmd 0x04321632 = .ok (.verify 6 1 2 3 4) ∧
  decodeCmd 0x10040340 = .ok (.secenc 3 0 4 .uncompressed) ∧
  decodeCmd 0x00876543 = .ok (.derdec 5 6 7 8) ∧
  decodeCmd 0x54321051 = .ok (.seval 0 1 2 3 4 5) ∧
  decode (.script [0x76]) = .ok .opDup ∧
  decode (.script [0x01, 0xFF]) = .ok (.push [0xFF]) ∧
  decode (.script [0x87]) = .ok .opEqual

/-! ### The step -/

/-- The engine's step runs the pending word's instruction, or, in an evaluation, the script command at its index. With
nothing scheduled the engine has the step; a scheduled grant is used up (R620, R413; log entries 3, 6). -/
def Obligations.StepRunsDecodedInstruction : Prop :=
  ∀ (s : State) (w : Word32), s.pending = some w →
    (∀ i, s.schedule = [] → s.eval = none → decodeCmd w = .ok i → step s = exec i s) ∧
    (∀ i es, s.schedule = .engine :: es → s.eval = none → decodeCmd w = .ok i →
      step s = exec i { s with schedule := es }) ∧
    (∀ ev c, s.schedule = [] → s.eval = some ev → ev.cmds[ev.pc]? = some c → step s = exec c.toInstr s) ∧
    (∀ ev c es, s.schedule = .engine :: es → s.eval = some ev → ev.cmds[ev.pc]? = some c →
      step s = exec c.toInstr { s with schedule := es })

/-- A scheduled host access or power-on reset is the next step; host reads have no side effect but the word read; an idle
block keeps its state (R102, R106, R535, R600; log entries 3, 4). -/
def Obligations.StepTakesScheduledEvent : Prop :=
  ∀ (s : State) (es : List Event),
    (∀ off, s.schedule = .read off :: es →
      step s = .next { s with schedule := es, rdata := s.portRead (placeOf off) }) ∧
    (∀ off v, s.schedule = .write off v :: es → step s = .next (State.hostWrite { s with schedule := es } off v)) ∧
    (s.schedule = .powerOn :: es → step s = .next (State.powerOn { s with schedule := es })) ∧
    (s.schedule = .engine :: es → s.pending = none → step s = .next { s with schedule := es }) ∧
    (s.schedule = [] → s.pending = none → step s = .next s)

/-! ### The host port -/

/-- A CMD write is accepted when BUSY = 0 and FATAL = 0, else dropped; CMD reads LASTCMD (R63). -/
def Obligations.CmdWriteAcceptedOrDropped : Prop :=
  ∀ (s : State) (w : Word32),
    (s.busy = false → s.fatal = false → s.writeAt 0x00C w =
      { s with lastcmd := w, pending := some w, done := false, err := false, errcode := none }) ∧
    (s.busy = true ∨ s.fatal = true → s.writeAt 0x00C w = { s with wdrop := true }) ∧
    s.readAt 0x00C = s.lastcmd

/-- While BUSY = 1 writes to CMD and the two windows set WDROP and change nothing else; writes to read-only, reserved and
unmapped offsets change nothing at any time; CTRL and STATUS writes act at all times (R71, R104). -/
def Obligations.HostWritesByOffset : Prop :=
  ∀ (s : State) (off : WordOff) (v : Word32),
    (s.busy = true →
      4 * off.toNat = 0x00C ∨ (0x100 ≤ 4 * off.toNat ∧ 4 * off.toNat ≤ 0x2FC) ∨
        (0x1000 ≤ 4 * off.toNat ∧ 4 * off.toNat ≤ 0x1FFC) → s.hostWrite off v = { s with wdrop := true }) ∧
    (4 * off.toNat = 0x000 ∨ (0x010 ≤ 4 * off.toNat ∧ 4 * off.toNat ≤ 0x0FC) ∨
        (0x300 ≤ 4 * off.toNat ∧ 4 * off.toNat ≤ 0xFFC) ∨ 0x2000 ≤ 4 * off.toNat → s.hostWrite off v = s) ∧
    s.writeAt 0x004 v = s.writeCtrl v ∧
    s.writeAt 0x008 v = s.writeStatus v

/-- A write to word j of R[i]: INT afterwards, word j replaced, the others kept, or 0 where the register was EMPTY; nothing
else changes (R33, R68). -/
def Obligations.RegisterWindowWrite : Prop :=
  ∀ (s : State) (i : RegIdx) (j : Nat) (v : Word32), j < 8 → s.busy = false →
    let t := s.writeAt (0x100 + 0x20 * i.val + 4 * j) v
    (t.getR i).tag = .int ∧
    (∀ k, k < 8 → (t.getR i).val.toNat / 2 ^ (32 * k) % 2 ^ 32 =
      if k = j then v.toNat
      else if (s.getR i).tag = .empty then 0 else (s.getR i).val.toNat / 2 ^ (32 * k) % 2 ^ 32) ∧
    (∀ i', i' ≠ i → t.getR i' = s.getR i') ∧
    t = { s with r := t.r }

/-- What the register windows read: 32-bit words, word 0 least significant, 0 for an EMPTY register and for a point that is
not COORD (R35, R67, R68, R69, R108); reserved and unmapped offsets read 0 (R104), ID its constant (R60), in every state. -/
def Obligations.WindowReads : Prop :=
  ∀ s : State,
    (∀ j, j < 8 →
      (∀ i : RegIdx,
        ((s.getR i).tag = .empty → s.readAt (0x100 + 0x20 * i.val + 4 * j) = 0) ∧
        ((s.getR i).tag ≠ .empty → (s.readAt (0x100 + 0x20 * i.val + 4 * j)).toNat =
          (s.getR i).val.toNat / 2 ^ (32 * j) % 2 ^ 32) ∧
        (∀ c x y, s.getQ i = .coord c x y →
          (s.readAt (0x400 + 0x80 * i.val + 4 * j)).toNat = x.toNat / 2 ^ (32 * j) % 2 ^ 32 ∧
          (s.readAt (0x400 + 0x80 * i.val + 0x20 + 4 * j)).toNat = y.toNat / 2 ^ (32 * j) % 2 ^ 32) ∧
        (s.getQ i = .empty ∨ (∃ c, s.getQ i = .inf c) →
          s.readAt (0x400 + 0x80 * i.val + 4 * j) = 0 ∧ s.readAt (0x400 + 0x80 * i.val + 0x20 + 4 * j) = 0) ∧
        s.readAt (0x400 + 0x80 * i.val + 0x40 + 4 * j) = 0 ∧
        s.readAt (0x400 + 0x80 * i.val + 0x60 + 4 * j) = 0) ∧
      (s.readAt (0x040 + 4 * j)).toNat = s.um.toNat / 2 ^ (32 * j) % 2 ^ 32 ∧
      (s.readAt (0x060 + 4 * j)).toNat = s.ua.toNat / 2 ^ (32 * j) % 2 ^ 32 ∧
      (s.readAt (0x080 + 4 * j)).toNat = s.ub.toNat / 2 ^ (32 * j) % 2 ^ 32 ∧
      (s.readAt (0x0A0 + 4 * j)).toNat = s.kpubx.toNat / 2 ^ (32 * j) % 2 ^ 32 ∧
      (s.readAt (0x0C0 + 4 * j)).toNat = s.kpuby.toNat / 2 ^ (32 * j) % 2 ^ 32) ∧
    (∀ off : WordOff,
      (0x024 ≤ 4 * off.toNat ∧ 4 * off.toNat ≤ 0x03C) ∨ (0x0E0 ≤ 4 * off.toNat ∧ 4 * off.toNat ≤ 0x0FC) ∨
        (0x300 ≤ 4 * off.toNat ∧ 4 * off.toNat ≤ 0x3FC) ∨ (0xC00 ≤ 4 * off.toNat ∧ 4 * off.toNat ≤ 0xFFC) ∨
        0x2000 ≤ 4 * off.toNat → s.portRead (placeOf off) = 0) ∧
    s.readAt 0x000 = 0x52430007

/-- The BUF window: a word holds four bytes in little-endian lanes; an accepted write replaces exactly those four bytes
(R70, R107). -/
def Obligations.BufWindowLanes : Prop :=
  ∀ (s : State) (k : Nat) (v : Word32), k < 1024 →
    (s.readAt (0x1000 + 4 * k)).toNat =
      (s.readByte (4 * k)).toNat + 2 ^ 8 * (s.readByte (4 * k + 1)).toNat
        + 2 ^ 16 * (s.readByte (4 * k + 2)).toNat + 2 ^ 24 * (s.readByte (4 * k + 3)).toNat ∧
    (s.busy = false →
      (∀ a, ((s.writeAt (0x1000 + 4 * k) v).readByte a).toNat =
        if 4 * k ≤ a ∧ a < 4 * k + 4 then v.toNat / 2 ^ (8 * (a - 4 * k)) % 2 ^ 8 else (s.readByte a).toNat) ∧
      s.writeAt (0x1000 + 4 * k) v = { s with buf := (s.writeAt (0x1000 + 4 * k) v).buf })

/-- STATUS (R62): its fields, with the codes of R501, and what a write clears: the write-1-to-clear bits it names; ERR goes
with ERRCODE, and neither while FATAL = 1; everything else is read-only (R523). -/
def Obligations.StatusWordAndWrites : Prop :=
  ∀ (s : State) (v : Word32),
    (bitsOf (s.readAt 0x008) 0 0 = s.busy.toNat ∧
      bitsOf (s.readAt 0x008) 1 1 = s.done.toNat ∧
      bitsOf (s.readAt 0x008) 2 2 = s.err.toNat ∧
      bitsOf (s.readAt 0x008) 3 3 = s.fatal.toNat ∧
      bitsOf (s.readAt 0x008) 4 4 = s.wdrop.toNat ∧
      bitsOf (s.readAt 0x008) 7 5 = 0 ∧
      bitsOf (s.readAt 0x008) 15 8 = (match s.errcode with
        | none => 0x00
        | some .invalidNum => 0x01
        | some .invalidPrime => 0x02
        | some .notOnCurve => 0x03
        | some .cannotParse => 0x04
        | some .invalidOpcode => 0x05
        | some .divisionByZero => 0x06
        | some .illegalCmd => 0x10
        | some .unwritten => 0x11
        | some .tag => 0x12
        | some .noUserField => 0x13
        | some .noUserCurve => 0x14
        | some .noKey => 0x15
        | some .bufRange => 0x16
        | some .capacity => 0x17
        | some .fieldMismatch => 0x20
        | some .curveMismatch => 0x21) ∧
      bitsOf (s.readAt 0x008) 31 16 = 0) ∧
    (s.busy = true ↔ ∃ w, s.pending = some w) ∧
    let t := s.writeAt 0x008 v
    (t.done = true ↔ s.done = true ∧ v.getLsbD 1 = false) ∧
    (t.wdrop = true ↔ s.wdrop = true ∧ v.getLsbD 4 = false) ∧
    (v.getLsbD 2 = true → s.fatal = false → t.err = false ∧ t.errcode = none) ∧
    (v.getLsbD 2 = false ∨ s.fatal = true → t.err = s.err ∧ t.errcode = s.errcode) ∧
    t = { s with done := t.done, wdrop := t.wdrop, err := t.err, errcode := t.errcode }

/-- RTAG0, RTAG1, QINFO0, QINFO1 and INFO (R64, R65, R66). -/
def Obligations.TagAndInfoWords : Prop :=
  ∀ s : State,
    (∀ i : RegIdx, bitsOf (s.readAt (0x010 + 4 * (i.val / 8))) (4 * (i.val % 8) + 3) (4 * (i.val % 8)) =
      (match (s.getR i).tag with
        | .empty => 0
        | .int => 1
        | .field .p => 2
        | .field .n => 3
        | .field .user => 4)) ∧
    (∀ i : RegIdx, bitsOf (s.readAt (0x018 + 4 * (i.val / 8))) (4 * (i.val % 8) + 3) (4 * (i.val % 8)) =
      (match s.getQ i with
        | .empty => 0
        | .inf .secp => 1
        | .coord .secp _ _ => 2
        | .inf .user => 5
        | .coord .user _ _ => 6)) ∧
    bitsOf (s.readAt 0x020) 0 0 = s.umv.toNat ∧
    bitsOf (s.readAt 0x020) 1 1 = s.ucv.toNat ∧
    bitsOf (s.readAt 0x020) 2 2 = s.kv.toNat ∧
    bitsOf (s.readAt 0x020) 31 3 = 0

/-- CTRL: bit 1 is a soft reset at once, else bit 0 is IE; CTRL reads IE; the IRQ output is a level (R61, R520). -/
def Obligations.CtrlAndIrq : Prop :=
  ∀ (s : State) (v : Word32),
    (v.getLsbD 1 = true → s.writeAt 0x004 v = s.softReset) ∧
    (v.getLsbD 1 = false → s.writeAt 0x004 v = { s with ie := v.getLsbD 0 }) ∧
    (s.readAt 0x004).toNat = s.ie.toNat ∧
    (s.irq = true ↔ s.ie = true ∧ s.done = true)

/-! ### Reset -/

/-- Every piece of state but BUF has its reset value after both resets, a soft reset keeps BUF (R600, R602, R604), and the
constants have the spec's values (R603, R11; the digits of N and G are R12's, log entry 12). -/
def Obligations.ResetValues : Prop :=
  (∀ s t : State, t = State.reset ∨ t = s.powerOn ∨ t = s.softReset →
    (∀ i, t.getR i = { tag := .empty, val := 0 }) ∧ (∀ i, t.getQ i = .empty) ∧
    t.umv = false ∧ t.um = 0 ∧ t.ucv = false ∧ t.ua = 0 ∧ t.ub = 0 ∧
    t.kv = false ∧ t.ksec = 0 ∧ t.kpubx = 0 ∧ t.kpuby = 0 ∧
    t.ie = false ∧ t.readAt 0x008 = 0 ∧ t.lastcmd = 0 ∧ t.pending = none ∧ t.eval = none ∧ t.irq = false ∧
    t.readAt 0x000 = 0x52430007) ∧
  (∀ s : State, SameBytes s s.softReset) ∧
  Config.P = 2 ^ 256 - 2 ^ 32 - 977 ∧ secp = { m := Config.P, a := 0, b := 7 } ∧
  Config.N = 0xFFFFFFFFFFFFFFFFFFFFFFFFFFFFFFFEBAAEDCE6AF48A03BBFD25E8CD0364141 ∧
  genG = .aff 0x79BE667EF9DCBBAC55A06295CE870B07029BFCDB2DCE28D959F2815B16F81798
    0x483ADA7726A3C4655DA4FBFC0E1108A8FD17B448A68554199C47D08FFB10D4B8

/-! ### Secrecy, completion, fatal errors -/

/-- The secret reaches nothing but a signature: no host read depends on it, and no step, SIGN's apart, leaves anything but the
secret itself that depends on it (R51). -/
def Obligations.SecretIsNotObservable : Prop :=
  ∀ (s : State) (k : W256),
    (∀ off, (s.withKsec k).readAt off = s.readAt off) ∧
    ((∀ w rd ra rb, s.pending = some w → decodeCmd w ≠ .ok (.sign rd ra rb)) →
      withKsecResult 0 (step (s.withKsec k)) = withKsecResult 0 (step s))

/-- The engine step completes every pending word: DONE = 1, BUSY = 0, and either nothing but STATUS changed and an error is
reported, or no error is reported (R500, R502, R504, R620). -/
def Obligations.EveryCommandCompletesPrecisely : Prop :=
  ∀ (s : State) (w : Word32), s.pending = some w → s.eval = none →
    ∃ t, s.engineStep = .next t ∧ t.done = true ∧ t.busy = false ∧ t.eval = none ∧
      ((∃ e : Err, t = { s with
          done := true, pending := none, eval := none, err := true, errcode := some e,
          fatal := s.fatal || decide (e = .fieldMismatch ∨ e = .curveMismatch) }) ∨
        (t.err = s.err ∧ t.errcode = s.errcode ∧ t.fatal = s.fatal))

/-- While FATAL = 1 no step but a reset clears FATAL, ERR or ERRCODE or makes a command pending (R505). -/
def Obligations.FatalIsSticky : Prop :=
  ∀ s t : State, s.StatusOk → s.fatal = true → s.resetNext = false → step s = .next t →
    t.fatal = true ∧ t.err = true ∧ t.errcode = s.errcode ∧ t.pending = none

/-! ### Invariants -/

/-- Every step keeps BUF's canonical form (log entry 2). -/
def Obligations.StepKeepsBufCanonical : Prop :=
  ∀ s t : State, s.BufOk → step s = .next t → t.BufOk

/-- Every step keeps STATUS, LASTCMD and the pending command consistent (R62, R63, R72, R505, R523). -/
def Obligations.StepKeepsStatusConsistent : Prop :=
  ∀ s t : State, s.StatusOk → step s = .next t → t.StatusOk

/-- Every step keeps the values of the registers, the user field, the user curve and the key in their ranges (R31, R46, R47,
R48, R50). -/
def Obligations.StepKeepsValuesInRange : Prop :=
  ∀ s t : State, s.ValuesOk → step s = .next t → t.ValuesOk

/-- The reset state meets the four invariants. -/
def Obligations.ResetMeetsInvariants : Prop :=
  State.reset.BufOk ∧ State.reset.StatusOk ∧ State.reset.ValuesOk ∧ State.reset.PointsOnCurve

/-- Only KLOAD writes the key store, resets apart (R50). -/
def Obligations.OnlyKloadWritesKey : Prop :=
  ∀ s t : State, s.resetNext = false → (∀ w rd ra, s.pending = some w → decodeCmd w ≠ .ok (.kload rd ra)) →
    step s = .next t → SameKey s t

/-! ### Frames -/

/-- The commands with one R destination write that register and STATUS, nothing else. -/
def Obligations.FrameOneRegister : Prop :=
  ∀ (i : Instr) (rd : RegIdx) (s t : State), oneRDest i = some rd → exec i s = .next t →
    OnlyRegs [rd] s t ∧ OnlyPoints [] s t ∧ SameBytes s t ∧ SameUser s t ∧ SameKey s t ∧ SameControl s t ∧
      Completed s t

/-- SIGN and DERDEC write their two destination registers and STATUS, nothing else. -/
def Obligations.FrameTwoRegisters : Prop :=
  ∀ (rd ra rb rc : RegIdx) (s t : State),
    (exec (.sign rd ra rb) s = .next t →
      OnlyRegs [rd, rb] s t ∧ OnlyPoints [] s t ∧ SameBytes s t ∧ SameUser s t ∧ SameKey s t ∧ SameControl s t ∧
        Completed s t) ∧
    (exec (.derdec rd ra rb rc) s = .next t →
      OnlyRegs [rd, rc] s t ∧ OnlyPoints [] s t ∧ SameBytes s t ∧ SameUser s t ∧ SameKey s t ∧ SameControl s t ∧
        Completed s t)

/-- The commands with one Q destination write that register and STATUS, nothing else; KLOAD writes the key store too. -/
def Obligations.FrameOnePoint : Prop :=
  (∀ (i : Instr) (rd : RegIdx) (s t : State), oneQDest i = some rd → exec i s = .next t →
    OnlyRegs [] s t ∧ OnlyPoints [rd] s t ∧ SameBytes s t ∧ SameUser s t ∧ SameKey s t ∧ SameControl s t ∧
      Completed s t) ∧
  ∀ (rd ra : RegIdx) (s t : State), exec (.kload rd ra) s = .next t →
    OnlyRegs [] s t ∧ OnlyPoints [rd] s t ∧ SameBytes s t ∧ SameUser s t ∧ SameControl s t ∧ Completed s t

/-- NOP writes STATUS alone. MSET writes the user field and curve and clears at most FU registers and USER points; CSET writes
the user curve and clears at most USER points (R460, R202, R251). -/
def Obligations.FrameNopMsetCset : Prop :=
  ∀ (ra rb : RegIdx) (s t : State),
    (exec .nop s = .next t →
      OnlyRegs [] s t ∧ OnlyPoints [] s t ∧ SameBytes s t ∧ SameUser s t ∧ SameKey s t ∧ SameControl s t ∧
        Completed s t) ∧
    (exec (.mset ra) s = .next t →
      (∀ i, (s.getR i).tag ≠ .field .user → t.getR i = s.getR i) ∧
      (∀ i, (∀ x y, s.getQ i ≠ .coord .user x y) → s.getQ i ≠ .inf .user → t.getQ i = s.getQ i) ∧
      SameBytes s t ∧ SameKey s t ∧ SameControl s t ∧ Completed s t) ∧
    (exec (.cset ra rb) s = .next t →
      OnlyRegs [] s t ∧
      (∀ i, (∀ x y, s.getQ i ≠ .coord .user x y) → s.getQ i ≠ .inf .user → t.getQ i = s.getQ i) ∧
      t.umv = s.umv ∧ t.um = s.um ∧ SameBytes s t ∧ SameKey s t ∧ SameControl s t ∧ Completed s t)

/-- SECENC and DERENC write their destination register, the bytes of their result at the address the address register holds,
and STATUS, nothing else; where an operand cannot be read they write no byte (R353, R363). -/
def Obligations.FrameEncoders : Prop :=
  (∀ (rd ra rb : RegIdx) (form : SecForm) (s t : State), exec (.secenc rd ra rb form) s = .next t →
    (∀ p c addr, s.qpt ra = .ok (p, c) → s.rint rb = .ok addr →
      SameBytesOutside addr (secEnc p form).length s t) ∧
    (∀ e, s.qpt ra = .error e ∨ s.rint rb = .error e → SameBytes s t) ∧
    OnlyRegs [rd] s t ∧ OnlyPoints [] s t ∧ SameUser s t ∧ SameKey s t ∧ SameControl s t ∧ Completed s t) ∧
  ∀ (rd ra rb rc : RegIdx) (s t : State), exec (.derenc rd ra rb rc) s = .next t →
    (∀ r x addr, s.rint ra = .ok r → s.rint rb = .ok x → s.rint rc = .ok addr →
      SameBytesOutside addr (derEnc r x).length s t) ∧
    (∀ e, s.rint ra = .error e ∨ s.rint rb = .error e ∨ s.rint rc = .error e → SameBytes s t) ∧
    OnlyRegs [rd] s t ∧ OnlyPoints [] s t ∧ SameUser s t ∧ SameKey s t ∧ SameControl s t ∧ Completed s t

/-- A script command writes the evaluation alone, or, where it fails, completes the SEVAL, which writes its verdict register
(R401, R411, R413, R507). That a script command is a step of its own is the model's deduction (log entry 6). -/
def Obligations.FrameScriptCommands : Prop :=
  ∀ (i : Instr) (s t : State) (ev : Eval), isScript i = true → s.eval = some ev → exec i s = .next t →
    OnlyRegs [ev.rd] s t ∧ OnlyPoints [] s t ∧ SameBytes s t ∧ SameUser s t ∧ SameKey s t ∧ SameControl s t ∧
    t.err = s.err ∧ t.errcode = s.errcode ∧ t.fatal = s.fatal ∧
    (t.eval = none → t.done = true ∧ t.pending = none) ∧
    (t.eval ≠ none → t = { s with eval := t.eval })

/-! ### Results: operands, moves, the field unit -/

/-- The operand reads (R34, R42). -/
def Obligations.OperandReads : Prop :=
  ∀ (s : State) (i : RegIdx),
    ((s.getR i).tag = .empty → s.rint i = .error .unwritten ∧ s.rfield i = .error .unwritten) ∧
    ((s.getR i).tag ≠ .empty → s.rint i = .ok (s.getR i).val.toNat) ∧
    ((s.getR i).tag = .int → s.rfield i = .error .tag) ∧
    (∀ f, (s.getR i).tag = .field f → s.rfield i = .ok ((s.getR i).val.toNat, f)) ∧
    (s.getQ i = .empty → s.qpt i = .error .unwritten) ∧
    (∀ c, s.getQ i = .inf c → s.qpt i = .ok (.inf, c)) ∧
    (∀ c x y, s.getQ i = .coord c x y → s.qpt i = .ok (.aff x.toNat y.toNat, c))

/-- NOP, RMOV, QMOV, RCLR and QCLR (R460-R464), the two errors included. -/
def Obligations.MoveAndClearResults : Prop :=
  ∀ (s : State) (rd ra : RegIdx),
    exec .nop s = .next s.finish ∧
    ((s.getR ra).tag ≠ .empty → exec (.rmov rd ra) s = .next (s.setR rd (s.getR ra).tag (s.getR ra).val).finish) ∧
    ((s.getR ra).tag = .empty → exec (.rmov rd ra) s = .next (s.fail .unwritten)) ∧
    (s.getQ ra ≠ .empty → exec (.qmov rd ra) s = .next (s.setQ rd (s.getQ ra)).finish) ∧
    (s.getQ ra = .empty → exec (.qmov rd ra) s = .next (s.fail .unwritten)) ∧
    exec (.rclr rd) s = .next (s.setR rd .empty 0).finish ∧
    exec (.qclr rd) s = .next (s.setQ rd .empty).finish

/-- MSET, FNEW and FRED where they succeed (R202-R204): MSET sets the modulus, clears the user curve, every FU register and
every USER point. -/
def Obligations.FieldSetupResults : Prop :=
  ∀ (s : State) (rd ra : RegIdx) (v : Nat), s.rint ra = .ok v →
    (1 < v → ∃ t, exec (.mset ra) s = .next t ∧ t.done = true ∧ t.busy = false ∧ t.err = s.err ∧
      t.errcode = s.errcode ∧ t.umv = true ∧ t.um.toNat = v ∧ t.ucv = false ∧ t.ua = 0 ∧ t.ub = 0 ∧
      (∀ i, t.getR i = if (s.getR i).tag = .field .user then { tag := .empty, val := 0 } else s.getR i) ∧
      (∀ i, t.getQ i = (match s.getQ i with
        | .inf .user => .empty
        | .coord .user _ _ => .empty
        | x => x))) ∧
    (∀ mode, (mode = .user → s.umv = true) →
      (v < s.fieldOf mode → exec (.fnew rd ra mode) s = .next (s.setR rd (.field mode) (toW v)).finish) ∧
      exec (.fred rd ra mode) s = .next (s.setR rd (.field mode) (toW (v % s.fieldOf mode))).finish) ∧
    s.fieldOf .p = Config.P ∧ s.fieldOf .n = Config.N ∧ s.fieldOf .user = s.um.toNat

/-- FADD, FSUB, FMUL, FDIV, FINV and FPOW on elements of one field, compared by value, for every modulus above 1: exact
integers and one reduction; division and inversion are Fermat's formula and raise DIVISION_BY_ZERO exactly for divisor 0;
FPOW gives 1 for exponent 0 and else reduces the exponent modulo m - 1 (R205-R213, R32; 90_conflicts.md C2). -/
def Obligations.FieldArithmeticResults : Prop :=
  ∀ (s : State) (rd ra rb : RegIdx) (a : Nat) (ta : FieldSel), s.rfield ra = .ok (a, ta) → 1 < s.fieldOf ta →
    (∀ b tb, s.rfield rb = .ok (b, tb) → s.fieldOf ta = s.fieldOf tb →
      exec (.fadd rd ra rb) s = .next (s.setR rd (.field ta) (toW ((a + b) % s.fieldOf ta))).finish ∧
      exec (.fsub rd ra rb) s =
        .next (s.setR rd (.field ta) (toW ((a + s.fieldOf ta - b) % s.fieldOf ta))).finish ∧
      exec (.fmul rd ra rb) s = .next (s.setR rd (.field ta) (toW (a * b % s.fieldOf ta))).finish ∧
      (b ≠ 0 → exec (.fdiv rd ra rb) s =
        .next (s.setR rd (.field ta) (toW (a * b ^ (s.fieldOf ta - 2) % s.fieldOf ta))).finish) ∧
      (b = 0 → exec (.fdiv rd ra rb) s = .next (s.fail .divisionByZero))) ∧
    (a ≠ 0 → exec (.finv rd ra) s =
      .next (s.setR rd (.field ta) (toW (a ^ (s.fieldOf ta - 2) % s.fieldOf ta))).finish) ∧
    (a = 0 → exec (.finv rd ra) s = .next (s.fail .divisionByZero)) ∧
    (∀ e, s.rint rb = .ok e → exec (.fpow rd ra rb) s = .next (s.setR rd (.field ta)
      (toW (if e = 0 then 1 else a ^ (e % (s.fieldOf ta - 1)) % s.fieldOf ta))).finish)

/-- The errors of MSET, FNEW, FRED and the field arithmetic, in the order of R506. -/
def Obligations.FieldUnitErrors : Prop :=
  ∀ (s : State) (rd ra rb : RegIdx),
    (∀ e, s.rint ra = .error e →
      exec (.mset ra) s = .next (s.fail e) ∧
      ∀ mode, exec (.fnew rd ra mode) s = .next (s.fail e) ∧ exec (.fred rd ra mode) s = .next (s.fail e)) ∧
    (∀ v, s.rint ra = .ok v →
      (v ≤ 1 → exec (.mset ra) s = .next (s.fail .invalidPrime)) ∧
      (s.umv = false →
        exec (.fnew rd ra .user) s = .next (s.fail .noUserField) ∧
        exec (.fred rd ra .user) s = .next (s.fail .noUserField)) ∧
      ∀ mode, (mode = .user → s.umv = true) → s.fieldOf mode ≤ v →
        exec (.fnew rd ra mode) s = .next (s.fail .invalidNum)) ∧
    (∀ i ∈ [Instr.fadd rd ra rb, .fsub rd ra rb, .fmul rd ra rb, .fdiv rd ra rb],
      (∀ e, s.rfield ra = .error e → exec i s = .next (s.fail e)) ∧
      (∀ x e, s.rfield ra = .ok x → s.rfield rb = .error e → exec i s = .next (s.fail e)) ∧
      (∀ a b ta tb, s.rfield ra = .ok (a, ta) → s.rfield rb = .ok (b, tb) → s.fieldOf ta ≠ s.fieldOf tb →
        exec i s = .next (s.fail .fieldMismatch))) ∧
    (∀ e, s.rfield ra = .error e →
      exec (.finv rd ra) s = .next (s.fail e) ∧ exec (.fpow rd ra rb) s = .next (s.fail e)) ∧
    (∀ x e, s.rfield ra = .ok x → s.rint rb = .error e → exec (.fpow rd ra rb) s = .next (s.fail e))

/-! ### Results: the curve unit -/

/-- CSET, PNEW and PINF where they succeed (R251-R253), and the curve values they go by (R41). PINF reads no register. -/
def Obligations.CurveConstructionResults : Prop :=
  ∀ (s : State) (rd ra rb : RegIdx),
    (∀ c, (c = .user → s.ucv = true) → exec (.pinf rd c) s = .next (s.setQ rd (.inf c)).finish) ∧
    s.curveOf .secp = { m := Config.P, a := 0, b := 7 } ∧
    s.curveOf .user = { m := s.um.toNat, a := s.ua.toNat, b := s.ub.toNat } ∧
    ∀ (a b : Nat) (ta tb : FieldSel), s.rfield ra = .ok (a, ta) → s.rfield rb = .ok (b, tb) →
      (s.umv = true → s.fieldOf ta = s.um.toNat → s.fieldOf tb = s.um.toNat →
        ∃ t, exec (.cset ra rb) s = .next t ∧ t.done = true ∧ t.busy = false ∧ t.err = s.err ∧
          t.errcode = s.errcode ∧ t.ucv = true ∧ t.ua = toW a ∧ t.ub = toW b ∧
          (∀ i, t.getQ i = (match s.getQ i with
            | .inf .user => .empty
            | .coord .user _ _ => .empty
            | x => x))) ∧
      ∀ c, (c = .user → s.ucv = true) → s.fieldOf ta = (s.curveOf c).m → s.fieldOf tb = (s.curveOf c).m →
        b * b % (s.curveOf c).m = (a * a * a + (s.curveOf c).a * a + (s.curveOf c).b) % (s.curveOf c).m →
        exec (.pnew rd ra rb c) s = .next (s.setQ rd (.coord c (toW a) (toW b))).finish

/-- PADD, PDBL and PMUL are the addition law and double-and-add on the operands' curve, the result tagged with the first
point's curve (R267-R269); where the law raises, so does the command. Double-and-add is the loop of R266, for every scalar,
point and curve: from INF, one addition for each bit 1 and one doubling after every bit, the lowest bit first. -/
def Obligations.PointCommandResults : Prop :=
  (∀ (s : State) (rd ra rb : RegIdx) (p1 p2 : Pt) (c1 c2 : CurveSel),
    s.qpt ra = .ok (p1, c1) → s.qpt rb = .ok (p2, c2) →
    (s.curveOf c1 = s.curveOf c2 →
      (∀ q, padd p1 p2 (s.curveOf c1) = .ok q → exec (.padd rd ra rb) s = .next (s.setQ rd (pointReg c1 q)).finish) ∧
      (∀ e, padd p1 p2 (s.curveOf c1) = .error e → exec (.padd rd ra rb) s = .next (s.fail e))) ∧
    (∃ q, padd p1 p1 (s.curveOf c1) = .ok q ∧ exec (.pdbl rd ra) s = .next (s.setQ rd (pointReg c1 q)).finish) ∧
    (∀ rk k, s.rint rk = .ok k →
      (∀ q, pmul k p1 (s.curveOf c1) = .ok q → exec (.pmul rd rk ra) s = .next (s.setQ rd (pointReg c1 q)).finish) ∧
      (∀ e, pmul k p1 (s.curveOf c1) = .error e → exec (.pmul rd rk ra) s = .next (s.fail e)))) ∧
  ∃ loop : Curve → Pt → Pt → Nat → Except Err Pt,
    (∀ k p c, pmul k p c = loop c .inf p k) ∧
    (∀ c result current, loop c result current 0 = .ok result) ∧
    ∀ c result current k, 0 < k → loop c result current k = (do
      let result' ← (if k % 2 = 1 then padd result current c else .ok result)
      let current' ← padd current current c
      loop c result' current' (k / 2))

/-- The errors of the curve unit, in the order of R506. -/
def Obligations.CurveUnitErrors : Prop :=
  ∀ (s : State) (rd ra rb : RegIdx),
    (∀ i ∈ [Instr.cset ra rb, .pnew rd ra rb .secp, .pnew rd ra rb .user],
      (∀ e, s.rfield ra = .error e → exec i s = .next (s.fail e)) ∧
      (∀ x e, s.rfield ra = .ok x → s.rfield rb = .error e → exec i s = .next (s.fail e))) ∧
    (∀ a b ta tb, s.rfield ra = .ok (a, ta) → s.rfield rb = .ok (b, tb) →
      (s.umv = false → exec (.cset ra rb) s = .next (s.fail .noUserField)) ∧
      (s.umv = true → s.fieldOf ta ≠ s.um.toNat ∨ s.fieldOf tb ≠ s.um.toNat →
        exec (.cset ra rb) s = .next (s.fail .tag)) ∧
      (s.ucv = false → exec (.pnew rd ra rb .user) s = .next (s.fail .noUserCurve)) ∧
      ∀ c, (c = .user → s.ucv = true) →
        (s.fieldOf ta ≠ (s.curveOf c).m ∨ s.fieldOf tb ≠ (s.curveOf c).m →
          exec (.pnew rd ra rb c) s = .next (s.fail .fieldMismatch)) ∧
        (s.fieldOf ta = (s.curveOf c).m → s.fieldOf tb = (s.curveOf c).m →
          b * b % (s.curveOf c).m ≠ (a * a * a + (s.curveOf c).a * a + (s.curveOf c).b) % (s.curveOf c).m →
          exec (.pnew rd ra rb c) s = .next (s.fail .notOnCurve))) ∧
    (s.ucv = false → exec (.pinf rd .user) s = .next (s.fail .noUserCurve)) ∧
    (∀ e, s.qpt ra = .error e →
      exec (.padd rd ra rb) s = .next (s.fail e) ∧ exec (.pdbl rd ra) s = .next (s.fail e)) ∧
    (∀ x e, s.qpt ra = .ok x → s.qpt rb = .error e → exec (.padd rd ra rb) s = .next (s.fail e)) ∧
    (∀ p1 p2 c1 c2, s.qpt ra = .ok (p1, c1) → s.qpt rb = .ok (p2, c2) → s.curveOf c1 ≠ s.curveOf c2 →
      exec (.padd rd ra rb) s = .next (s.fail .curveMismatch)) ∧
    (∀ e, s.rint ra = .error e → exec (.pmul rd ra rb) s = .next (s.fail e)) ∧
    (∀ k e, s.rint ra = .ok k → s.qpt rb = .error e → exec (.pmul rd ra rb) s = .next (s.fail e))

/-- The addition law's cases, the slopes and coordinates written over the integers (R261-R265). -/
def Obligations.PointAdditionCases : Prop :=
  (∀ (c : Curve) (p : Pt), padd .inf p c = .ok p ∧ padd p .inf c = .ok p) ∧
  ∀ (c : Curve) (x1 y1 x2 y2 : Nat), 1 < c.m → x1 < c.m → y1 < c.m → x2 < c.m → y2 < c.m →
    (x1 = x2 → (y1 + y2) % c.m = 0 → padd (.aff x1 y1) (.aff x2 y2) c = .ok .inf) ∧
    (x1 = x2 → y1 = y2 → (y1 + y2) % c.m ≠ 0 → ∃ s x3 y3 : Nat,
      padd (.aff x1 y1) (.aff x2 y2) c = .ok (.aff x3 y3) ∧
      (s : Int) = (3 * x1 ^ 2 + c.a) * (2 * y1) ^ (c.m - 2) % c.m ∧
      (x3 : Int) = (s ^ 2 - 2 * x1) % c.m ∧
      (y3 : Int) = (s * (x1 - x3) - y1) % c.m) ∧
    (x1 ≠ x2 → ∃ s x3 y3 : Nat,
      padd (.aff x1 y1) (.aff x2 y2) c = .ok (.aff x3 y3) ∧
      (s : Int) = ((y1 : Int) - y2) * ((x1 : Int) - x2) ^ (c.m - 2) % c.m ∧
      (x3 : Int) = (s ^ 2 - x1 - x2) % c.m ∧
      (y3 : Int) = (s * (x1 - x3) - y1) % c.m) ∧
    (x1 = x2 → y1 ≠ y2 → (y1 + y2) % c.m ≠ 0 → padd (.aff x1 y1) (.aff x2 y2) c = .error .divisionByZero)

/-- Over a prime modulus the addition law never raises between points of the curve, and its results are on the curve; so
PADD and PMUL complete there with a point of the curve (R44, R265), and every step keeps every point over a prime modulus,
the points of SECP among them, on its curve. -/
def Obligations.PrimeCurveIsClosed : Prop :=
  (∀ s t : State, s.ValuesOk → s.PointsOnCurve → step s = .next t → t.PointsOnCurve) ∧
  ∀ c : Curve, Nat.Prime c.m → c.a < c.m → c.b < c.m →
    (∀ p1 p2, p1.isOn c → p2.isOn c → ∃ q, padd p1 p2 c = .ok q ∧ q.isOn c) ∧
    (∀ k p, p.isOn c → ∃ q, pmul k p c = .ok q ∧ q.isOn c) ∧
    ∀ (s : State) (rd ra rb : RegIdx) (p1 p2 : Pt) (c1 c2 : CurveSel),
      s.qpt ra = .ok (p1, c1) → s.qpt rb = .ok (p2, c2) → s.curveOf c1 = c → s.curveOf c2 = c →
      p1.isOn c → p2.isOn c →
      (∃ q, q.isOn c ∧ exec (.padd rd ra rb) s = .next (s.setQ rd (pointReg c1 q)).finish) ∧
      ∀ rk k, s.rint rk = .ok k → ∃ q, q.isOn c ∧ exec (.pmul rd rk ra) s = .next (s.setQ rd (pointReg c1 q)).finish

/-- The group properties of R270. -/
def Obligations.GroupProperties : Prop :=
  (∀ (c : Curve) (p : Pt), padd p .inf c = .ok p ∧ pmul 0 p c = .ok .inf ∧ pmul 1 p c = .ok p) ∧
  (∀ (c : Curve) (x y : Nat), y < c.m → padd (.aff x y) (.aff x ((c.m - y) % c.m)) c = .ok .inf) ∧
  (∀ (s : State) (rd ra : RegIdx), exec (.pdbl rd ra) s = exec (.padd rd ra ra) s) ∧
  pmul Config.N genG secp = .ok .inf ∧
  ∀ x y, (Pt.aff x y).isOn secp → y ≠ 0

/-- The field laws over a prime modulus (R215). -/
def Obligations.PrimeFieldLaws : Prop :=
  ∀ m a b : Nat, Nat.Prime m → a < m → b < m →
    fsub (fadd a b m) b m = a ∧
    (b ≠ 0 → fdiv (fmul a b m) b m = .ok a ∧ ∃ q, fdiv a b m = .ok q ∧ q < m ∧ q * b % m = a) ∧
    fmul a b m = a * b % m ∧
    (2 < m → fpow a (m - 1) m = 1)

/-! ### Results: the ECDSA unit -/

/-- KLOAD, SIGN and VERIFY where they succeed (R301, R302, R305), with the algorithms they run. KLOAD's multiplication never
raises, because P is prime. SIGN's signature is that of the first accepted candidate of the nonce sequence, however late it
comes (R303, R310, R311, R313), and in every case that of an accepted nonce; which nonce that is, is free where no candidate
is ever accepted and for another NONCE_FN (log entries 8 and 9). -/
def Obligations.EcdsaResults : Prop :=
  (∀ (s : State) (rd ra rb rc re : RegIdx),
    (∀ e, s.rint ra = .ok e → 1 ≤ e → e < Config.N →
      ∃ q t, pmul e genG secp = .ok q ∧ exec (.kload rd ra) s = .next t ∧
        t.kv = true ∧ t.ksec.toNat = e ∧ t.getQ rd = pointReg .secp q ∧
        (∀ x y, q = .aff x y → t.kpubx.toNat = x ∧ t.kpuby.toNat = y) ∧
        t.done = true ∧ t.busy = false ∧ t.err = s.err ∧ t.errcode = s.errcode) ∧
    (∀ z, rd ≠ rb → s.rint ra = .ok z → s.kv = true →
      exec (.sign rd ra rb) s =
        .next ((s.setInt rd (signDigest s.params.nonce s.ksec.toNat z).1).setInt rb
          (signDigest s.params.nonce s.ksec.toNat z).2).finish) ∧
    (∀ p c z r x, s.qpt ra = .ok (p, c) → s.rint rb = .ok z → s.rint rc = .ok r → s.rint re = .ok x →
      s.curveOf c = secp →
      exec (.verify rd ra rb rc re) s = .next (s.setInt rd (if verifySig p z r x then 1 else 0)).finish)) ∧
  -- R303: one turn of the loop with candidate k
  (∀ e z k, (k = 0 ∨ Config.N ≤ k → signWith e z k = none) ∧
    ∀ x y, 1 ≤ k → k < Config.N → pmul k genG secp = .ok (.aff x y) → signWith e z k =
      (let r := x % Config.N
       let t := (r * e + z) * k ^ (Config.N - 2) % Config.N
       if r = 0 ∨ t = 0 then none else some (r, if t > Config.N / 2 then Config.N - t else t))) ∧
  -- R310, R311: K n and V n are K and V when candidate n is examined
  (∀ e z, ∃ K V : Nat → Bytes,
    (let seed := be 32 e ++ be 32 (z % Config.N)
     let K1 := hmac (List.replicate 32 0x00) (List.replicate 32 0x01 ++ [0x00] ++ seed)
     let V1 := hmac K1 (List.replicate 32 0x01)
     K 0 = hmac K1 (V1 ++ [0x01] ++ seed) ∧ V 0 = hmac (K 0) (hmac (K 0) V1)) ∧
    (∀ n, K (n + 1) = hmac (K n) (V n ++ [0x00]) ∧ V (n + 1) = hmac (K (n + 1)) (hmac (K (n + 1)) (V n))) ∧
    ∀ n rt, (∀ j, j < n → signWith e z (intBe (V j)) = none) → signWith e z (intBe (V n)) = some rt →
      signDigest .rfc6979 e z = rt) ∧
  (∀ fn e z, 1 ≤ e → e < Config.N → ∃ k, signWith e z k = some (signDigest fn e z)) ∧
  -- R306
  ∀ pub z r t,
    (r = 0 ∨ Config.N ≤ r ∨ t = 0 ∨ Config.N ≤ t → verifySig pub z r t = false) ∧
    ∀ p1 p2, 1 ≤ r → r < Config.N → 1 ≤ t → t < Config.N →
      pmul (z * t ^ (Config.N - 2) % Config.N) genG secp = .ok p1 →
      pmul (r * t ^ (Config.N - 2) % Config.N) pub secp = .ok p2 →
      (padd p1 p2 secp = .ok .inf → verifySig pub z r t = false) ∧
      ∀ x y, padd p1 p2 secp = .ok (.aff x y) → (verifySig pub z r t = true ↔ x % Config.N = r)

/-- The errors of the ECDSA unit, in the order of R506. -/
def Obligations.EcdsaErrors : Prop :=
  ∀ (s : State) (rd ra rb rc re : RegIdx),
    (∀ e, s.rint ra = .error e → exec (.kload rd ra) s = .next (s.fail e)) ∧
    (∀ k, s.rint ra = .ok k → k = 0 ∨ Config.N ≤ k → exec (.kload rd ra) s = .next (s.fail .invalidNum)) ∧
    (rd = rb → exec (.sign rd ra rb) s = .next (s.fail .illegalCmd)) ∧
    (rd ≠ rb →
      (∀ e, s.rint ra = .error e → exec (.sign rd ra rb) s = .next (s.fail e)) ∧
      (∀ z, s.rint ra = .ok z → s.kv = false → exec (.sign rd ra rb) s = .next (s.fail .noKey))) ∧
    (∀ e, s.qpt ra = .error e → exec (.verify rd ra rb rc re) s = .next (s.fail e)) ∧
    (∀ p c, s.qpt ra = .ok (p, c) →
      (∀ e, s.rint rb = .error e → exec (.verify rd ra rb rc re) s = .next (s.fail e)) ∧
      (∀ z e, s.rint rb = .ok z → s.rint rc = .error e → exec (.verify rd ra rb rc re) s = .next (s.fail e)) ∧
      (∀ z r e, s.rint rb = .ok z → s.rint rc = .ok r → s.rint re = .error e →
        exec (.verify rd ra rb rc re) s = .next (s.fail e)) ∧
      (∀ z r x, s.rint rb = .ok z → s.rint rc = .ok r → s.rint re = .ok x → s.curveOf c ≠ secp →
        exec (.verify rd ra rb rc re) s = .next (s.fail .curveMismatch)))

/-- Signature halves lie in their limits: the low-S rule, and 1 ≤ r < N and 1 ≤ s ≤ (N - 1)/2 for every accepted candidate
(R303, R304) and for every value SIGN writes, the free values of log entries 8, 9 and 16 included. -/
def Obligations.SignatureLimits : Prop :=
  (∀ s, lowS s = if s > Config.N / 2 then Config.N - s else s) ∧
  (∀ e z k r s, signWith e z k = some (r, s) → 1 ≤ r ∧ r < Config.N ∧ 1 ≤ s ∧ s ≤ (Config.N - 1) / 2) ∧
  ∀ fn e z, 1 ≤ (signDigest fn e z).1 ∧ (signDigest fn e z).1 < Config.N ∧
    1 ≤ (signDigest fn e z).2 ∧ (signDigest fn e z).2 ≤ (Config.N - 1) / 2

/-- SIGN writes the same signature for digests congruent modulo N (R312). -/
def Obligations.DigestEntersModuloN : Prop :=
  ∀ (s : State) (ra ra' rd rb : RegIdx) (z z' : Nat), rd ≠ rb → s.kv = true →
    s.rint ra = .ok z → s.rint ra' = .ok z' → z % Config.N = z' % Config.N →
    exec (.sign rd ra rb) s = exec (.sign rd ra' rb) s

/-- Every signature SIGN makes verifies under the key's public point, whatever the key, the digest and the nonce function, and
so does the signature made from any accepted candidate (R307). -/
def Obligations.SignaturesVerify : Prop :=
  ∀ e z : Nat, ∀ pub : Pt, 1 ≤ e → e < Config.N → pmul e genG secp = .ok pub →
    (∀ fn, verifySig pub z (signDigest fn e z).1 (signDigest fn e z).2 = true) ∧
    ∀ k r s, signWith e z k = some (r, s) → verifySig pub z r s = true

/-- Multiples of G by scalars in [1, N) are points with coordinates, so KLOAD's public key is never the point at infinity and
every candidate nonce gives a point (R301, R303). -/
def Obligations.NoScalarBelowOrderGivesInfinity : Prop :=
  ∀ k : Nat, 1 ≤ k → k < Config.N → ∃ x y, pmul k genG secp = .ok (.aff x y) ∧ (Pt.aff x y).isOn secp

/-! ### Results: the codec unit -/

/-- SECENC and DERENC where they succeed: byte j of the result at addr + j, every other byte as before, the length in RD
(R353, R363). -/
def Obligations.EncoderResults : Prop :=
  ∀ (s : State) (rd ra rb rc : RegIdx),
    (∀ p c addr form, s.qpt ra = .ok (p, c) → s.rint rb = .ok addr → s.curveOf c = secp →
      addr + (secEnc p form).length ≤ 4096 →
      ∃ t, exec (.secenc rd ra rb form) s = .next t ∧ t.done = true ∧ t.busy = false ∧ t.err = s.err ∧
        t.errcode = s.errcode ∧
        t.getR rd = { tag := .int, val := toW (secEnc p form).length } ∧
        ∀ a, t.readByte a = if addr ≤ a ∧ a < addr + (secEnc p form).length
          then (secEnc p form).getD (a - addr) 0 else s.readByte a) ∧
    (∀ r x addr, s.rint ra = .ok r → s.rint rb = .ok x → s.rint rc = .ok addr →
      addr + (derEnc r x).length ≤ 4096 →
      ∃ t, exec (.derenc rd ra rb rc) s = .next t ∧ t.done = true ∧ t.busy = false ∧ t.err = s.err ∧
        t.errcode = s.errcode ∧
        t.getR rd = { tag := .int, val := toW (derEnc r x).length } ∧
        ∀ a, t.readByte a = if addr ≤ a ∧ a < addr + (derEnc r x).length
          then (derEnc r x).getD (a - addr) 0 else s.readByte a)

/-- SECDEC, DERDEC and SPARSE where they succeed (R354, R364, R421), on the bytes BUF holds (R111). -/
def Obligations.DecoderResults : Prop :=
  ∀ (s : State) (rd ra rb rc : RegIdx) (addr n : Nat), s.rint ra = .ok addr → s.rint rb = .ok n → addr + n ≤ 4096 →
    (∀ j, j < n → (s.memRead addr n).getD j 0 = s.readByte (addr + j)) ∧
    (∀ x y, secDec (s.memRead addr n) = .ok (x, y) →
      exec (.secdec rd ra rb) s = .next (s.setQ rd (.coord .secp (toW x) (toW y))).finish) ∧
    (∀ r x, rd ≠ rc → derDec (s.memRead addr n) = .ok (r, x) → r < 2 ^ 256 → x < 2 ^ 256 →
      exec (.derdec rd ra rb rc) s = .next ((s.setInt rd r).setInt rc x).finish) ∧
    (∀ cs, parseScript (s.memRead addr n) = .ok cs →
      exec (.sparse rd ra rb) s = .next (s.setInt rd cs.length).finish)

/-- The errors of the codec unit and of SPARSE, in the order of R506; the range check uses the full values (R112). Which byte
strings the two parsers accept, with what values, and which error the others raise (R352, R362). -/
def Obligations.CodecErrors : Prop :=
  -- R352
  (secDec [] = .error .cannotParse ∧
    (∀ b d, b ≠ 0x02 → b ≠ 0x03 → b ≠ 0x04 → secDec (b :: d) = .error .cannotParse) ∧
    (∀ d, d.length ≠ 64 → secDec (0x04 :: d) = .error .cannotParse) ∧
    (∀ d, d.length ≠ 32 → secDec (0x02 :: d) = .error .cannotParse ∧ secDec (0x03 :: d) = .error .cannotParse) ∧
    (∀ d x y, d.length = 64 → intBe (d.take 32) = x → intBe (d.drop 32) = y → secDec (0x04 :: d) =
      if Config.P ≤ x ∨ Config.P ≤ y then .error .invalidNum
      else if y ^ 2 % Config.P = (x ^ 3 + 7) % Config.P then .ok (x, y) else .error .notOnCurve) ∧
    ∀ d x, d.length = 32 → intBe d = x →
      (Config.P ≤ x → secDec (0x02 :: d) = .error .invalidNum ∧ secDec (0x03 :: d) = .error .invalidNum) ∧
      ∀ yc parity y, x < Config.P → (x ^ 3 + 7) ^ ((Config.P + 1) / 4) % Config.P = yc → parity < 2 →
        (if yc % 2 = parity then yc else (Config.P - yc) % Config.P) = y →
        secDec ((if parity = 0 then 0x02 else 0x03) :: d) =
          if y ^ 2 % Config.P = (x ^ 3 + 7) % Config.P then .ok (x, y) else .error .notOnCurve) ∧
  -- R362
  ((∀ d r t, derDec d = .ok (r, t) ↔ ∃ cr ct : Bytes, cr.length + ct.length + 4 < 256 ∧
      d = [0x30, BitVec.ofNat 8 (cr.length + ct.length + 4), 0x02, BitVec.ofNat 8 cr.length] ++ cr ++
        ([0x02, BitVec.ofNat 8 ct.length] ++ ct) ∧ intBe cr = r ∧ intBe ct = t) ∧
    ∀ d e, derDec d = .error e → e = .cannotParse) ∧
  ∀ (s : State) (rd ra rb rc : RegIdx),
    (rd = rc → exec (.derdec rd ra rb rc) s = .next (s.fail .illegalCmd)) ∧
    (rd ≠ rc → ∀ i ∈ [Instr.secdec rd ra rb, .derdec rd ra rb rc, .sparse rd ra rb],
      (∀ e, s.rint ra = .error e → exec i s = .next (s.fail e)) ∧
      (∀ addr e, s.rint ra = .ok addr → s.rint rb = .error e → exec i s = .next (s.fail e)) ∧
      (∀ addr n, s.rint ra = .ok addr → s.rint rb = .ok n → 4096 < addr + n → exec i s = .next (s.fail .bufRange))) ∧
    (∀ addr n, s.rint ra = .ok addr → s.rint rb = .ok n → addr + n ≤ 4096 →
      (∀ e, secDec (s.memRead addr n) = .error e → exec (.secdec rd ra rb) s = .next (s.fail e)) ∧
      (∀ e, parseScript (s.memRead addr n) = .error e → exec (.sparse rd ra rb) s = .next (s.fail e)) ∧
      (rd ≠ rc →
        (∀ e, derDec (s.memRead addr n) = .error e → exec (.derdec rd ra rb rc) s = .next (s.fail e)) ∧
        (∀ r x, derDec (s.memRead addr n) = .ok (r, x) → 2 ^ 256 ≤ r ∨ 2 ^ 256 ≤ x →
          exec (.derdec rd ra rb rc) s = .next (s.fail .capacity)))) ∧
    (∀ form,
      (∀ e, s.qpt ra = .error e → exec (.secenc rd ra rb form) s = .next (s.fail e)) ∧
      (∀ x e, s.qpt ra = .ok x → s.rint rb = .error e → exec (.secenc rd ra rb form) s = .next (s.fail e)) ∧
      (∀ p c addr, s.qpt ra = .ok (p, c) → s.rint rb = .ok addr →
        (s.curveOf c ≠ secp → exec (.secenc rd ra rb form) s = .next (s.fail .tag)) ∧
        (s.curveOf c = secp → 4096 < addr + (secEnc p form).length →
          exec (.secenc rd ra rb form) s = .next (s.fail .bufRange)))) ∧
    (∀ e, s.rint ra = .error e → exec (.derenc rd ra rb rc) s = .next (s.fail e)) ∧
    (∀ r e, s.rint ra = .ok r → s.rint rb = .error e → exec (.derenc rd ra rb rc) s = .next (s.fail e)) ∧
    (∀ r x e, s.rint ra = .ok r → s.rint rb = .ok x → s.rint rc = .error e →
      exec (.derenc rd ra rb rc) s = .next (s.fail e)) ∧
    (∀ r x addr, s.rint ra = .ok r → s.rint rb = .ok x → s.rint rc = .ok addr → 4096 < addr + (derEnc r x).length →
      exec (.derenc rd ra rb rc) s = .next (s.fail .bufRange))

/-- A SEC point that is not INF is parsed back from both of its forms (R366). -/
def Obligations.SecRoundTrip : Prop :=
  ∀ (x y : Nat) (form : SecForm), (Pt.aff x y).isOn secp → secDec (secEnc (.aff x y) form) = .ok (x, y)

/-- Every pair of W-bit integers is parsed back from its DER form (R362, R366). -/
def Obligations.DerRoundTrip : Prop :=
  ∀ r s : Nat, r < 2 ^ 256 → s < 2 ^ 256 → derDec (derEnc r s) = .ok (r, s)

/-- The bytes of the encodings: big-endian integers (R15), the SEC forms (R351), minimal DER integers with their sign pad and
the signature SEQUENCE (R360, R361; the parity and minimality are log entry 12); and their lengths: 1, 33 or 65 bytes, and 8
to 72 bytes, 71 for a low-S signature (R365). -/
def Obligations.EncodingBytesAndLengths : Prop :=
  (intBe [] = 0 ∧ (∀ d b, intBe (d ++ [b]) = 256 * intBe d + b.toNat) ∧
    ∀ n v, (be n v).length = n ∧ intBe (be n v) = v % 256 ^ n) ∧
  (∀ form, secEnc .inf form = [0x00]) ∧
  (∀ x y, secEnc (.aff x y) .uncompressed = 0x04 :: (be 32 x ++ be 32 y) ∧
    secEnc (.aff x y) .compressed = (if y % 2 = 0 then 0x02 else 0x03) :: be 32 x) ∧
  (∀ v, v < 2 ^ 256 → ∃ c : Bytes, derInt v = 0x02 :: BitVec.ofNat 8 c.length :: c ∧ intBe c = v ∧
    1 ≤ c.length ∧ c.length ≤ 33 ∧ byteAt c 0 < 0x80 ∧
    (byteAt c 0 = 0 → c.length = 1 ∨ 0x80 ≤ byteAt c 1)) ∧
  (∀ r s, derEnc r s =
    0x30 :: BitVec.ofNat 8 (derInt r ++ derInt s).length :: (derInt r ++ derInt s)) ∧
  (∀ form, (secEnc .inf form).length = 1) ∧
  (∀ x y, (secEnc (.aff x y) .compressed).length = 33 ∧ (secEnc (.aff x y) .uncompressed).length = 65) ∧
  (∀ r s, 8 ≤ (derEnc r s).length ∧ (derEnc r s).length ≤ 72) ∧
  ∀ r s, r < Config.N → s ≤ (Config.N - 1) / 2 → (derEnc r s).length ≤ 71

/-! ### Results: the script unit -/

/-- SEVAL: both scripts are parsed on their own, combined and evaluated, and the verdict is 0 or 1; its errors come in the
order of R506, none of them from the evaluation (R404, R420, R507). -/
def Obligations.SevalOutcomes : Prop :=
  ∀ (s : State) (rd ra rb rc re rz : RegIdx),
    (∀ e, s.rint ra = .error e → exec (.seval rd ra rb rc re rz) s = .next (s.fail e)) ∧
    ∀ aA, s.rint ra = .ok aA →
      (∀ e, s.rint rb = .error e → exec (.seval rd ra rb rc re rz) s = .next (s.fail e)) ∧
      ∀ nA, s.rint rb = .ok nA →
        (∀ e, s.rint rc = .error e → exec (.seval rd ra rb rc re rz) s = .next (s.fail e)) ∧
        ∀ aB, s.rint rc = .ok aB →
          (∀ e, s.rint re = .error e → exec (.seval rd ra rb rc re rz) s = .next (s.fail e)) ∧
          ∀ nB, s.rint re = .ok nB →
            (∀ e, s.rint rz = .error e → exec (.seval rd ra rb rc re rz) s = .next (s.fail e)) ∧
            ∀ z, s.rint rz = .ok z →
              (4096 < aA + nA ∨ 4096 < aB + nB → exec (.seval rd ra rb rc re rz) s = .next (s.fail .bufRange)) ∧
              (aA + nA ≤ 4096 → aB + nB ≤ 4096 →
                (∀ e, parseScript (s.memRead aA nA) = .error e →
                  exec (.seval rd ra rb rc re rz) s = .next (s.fail e)) ∧
                ∀ cA, parseScript (s.memRead aA nA) = .ok cA →
                  (∀ e, parseScript (s.memRead aB nB) = .error e →
                    exec (.seval rd ra rb rc re rz) s = .next (s.fail e)) ∧
                  ∀ cB, parseScript (s.memRead aB nB) = .ok cB →
                    exec (.seval rd ra rb rc re rz) s =
                      .next (s.setInt rd (if evalScript s.params.sighash (cA ++ cB) z then 1 else 0)).finish)

/-- The six script commands in an evaluation (R414-R419): the new stack and the next index; where a command fails, SEVAL
completes with verdict 0 (R413, R507). That a script command is a step of its own is the model's deduction (log entry 6);
outside an evaluation it is no step of the block (log entry 7). -/
def Obligations.ScriptCommandResults : Prop :=
  ∀ (s : State) (ev : Eval), s.eval = some ev →
    (∀ d, exec (.push d) s = .next { s with eval := some { ev with stack := d :: ev.stack, pc := ev.pc + 1 } }) ∧
    (∀ x st, ev.stack = x :: st →
      exec .opDup s = .next { s with eval := some { ev with stack := x :: x :: st, pc := ev.pc + 1 } } ∧
      exec .opHash160 s =
        .next { s with eval := some { ev with stack := ripemd160 (sha256 x) :: st, pc := ev.pc + 1 } }) ∧
    (∀ a b st, ev.stack = a :: b :: st →
      exec .opEqual s = .next { s with
        eval := some { ev with stack := (if a = b then [0x01] else []) :: st, pc := ev.pc + 1 } } ∧
      (a = b → exec .opEqualverify s = .next { s with eval := some { ev with stack := st, pc := ev.pc + 1 } }) ∧
      (a ≠ b → exec .opEqualverify s = .next (s.setInt ev.rd 0).finish)) ∧
    (∀ pk sig st x y r n, ev.stack = pk :: sig :: st → sig ≠ [] →
      (s.params.sighash = .require01 → sig.getLast? = some 0x01) →
      secDec pk = .ok (x, y) → derDec sig.dropLast = .ok (r, n) →
      exec .opChecksig s = .next { s with
        eval := some { ev with
          stack := (if verifySig (.aff x y) ev.z.toNat r n then [0x01] else []) :: st, pc := ev.pc + 1 } }) ∧
    (∀ pk sig st, ev.stack = pk :: sig :: st →
      sig = [] ∨ (s.params.sighash = .require01 ∧ sig.getLast? ≠ some 0x01) ∨
        (∃ e, secDec pk = .error e) ∨ (∃ e, derDec sig.dropLast = .error e) →
      exec .opChecksig s = .next (s.setInt ev.rd 0).finish) ∧
    (ev.stack = [] → exec .opDup s = .next (s.setInt ev.rd 0).finish ∧
      exec .opHash160 s = .next (s.setInt ev.rd 0).finish) ∧
    (ev.stack.length < 2 → exec .opEqual s = .next (s.setInt ev.rd 0).finish ∧
      exec .opEqualverify s = .next (s.setInt ev.rd 0).finish ∧
      exec .opChecksig s = .next (s.setInt ev.rd 0).finish) ∧
    ∀ i, isScript i = true → exec i { s with eval := none } = .fault .noEvaluation

/-- Parsing and serialising a script are inverse (R403, R405). -/
def Obligations.ScriptRoundTrip : Prop :=
  (∀ cs : List ScriptCmd, (∀ c ∈ cs, c.wellFormed = true) → parseScript (serializeScript cs) = .ok cs) ∧
  ∀ (d : Bytes) (cs : List ScriptCmd), parseScript d = .ok cs → serializeScript cs = d ∧
    ∀ c ∈ cs, c.wellFormed = true

/-- The properties the source requires of evaluation (R422). -/
def Obligations.ScriptProperties : Prop :=
  ∀ (policy : SighashPolicy) (z : Nat) (x y : Bytes),
    evalScript policy [] z = false ∧
    (x ≠ [] → evalScript policy [.push x] z = true) ∧
    evalScript policy [.push x, .op .dup, .op .equal] z = true ∧
    (x ≠ y → evalScript policy [.push x, .push y, .op .equal] z = false)

/-- At every point of an evaluation the stack holds at most STACK_DEPTH elements of at most ELEM_MAX bytes each, whatever two
regions of BUF the scripts come from (R410, R412). -/
def Obligations.ScriptStackIsBounded : Prop :=
  ∀ (policy : SighashPolicy) (z : Nat) (dA dB : Bytes) (cA cB cs : List ScriptCmd) (st : Stack),
    dA.length ≤ 4096 → dB.length ≤ 4096 → parseScript dA = .ok cA → parseScript dB = .ok cB →
    cs <+: cA ++ cB → runStack policy z cs [] = some st → st.length ≤ 8192 ∧ ∀ x ∈ st, x.length ≤ 75

/-- Running an evaluation command by command ends in the state of the one atomic SEVAL (R413, R420, R620): n + 1 engine steps
suffice for n commands. The states with an evaluation in progress are the model's deduction (log entry 6). -/
def Obligations.SevalEqualsItsSmallSteps : Prop :=
  ∀ (s : State) (w : Word32) (rd ra rb rc re rz : RegIdx) (aA nA aB nB z : Nat) (cA cB : List ScriptCmd),
    s.pending = some w →
    s.rint ra = .ok aA → s.rint rb = .ok nA → s.rint rc = .ok aB → s.rint re = .ok nB → s.rint rz = .ok z →
    aA + nA ≤ 4096 → aB + nB ≤ 4096 →
    parseScript (s.memRead aA nA) = .ok cA → parseScript (s.memRead aB nB) = .ok cB →
    engineSteps ((cA ++ cB).length + 1)
        { s with eval := some { cmds := cA ++ cB, pc := 0, stack := [], z := toW z, rd := rd } } =
      exec (.seval rd ra rb rc re rz) s

end
end

