-- ==== Sys2Proof/Laws/Arith.lean ====
section
/-!
SUPPORT. The field helpers (00_scope.md R18; 40_field.md R209, R210): square-and-multiply is the power, and every result
is below its modulus.
-/

namespace Sys2Proof.Machine

theorem fadd_lt (a b : Nat) {m : Nat} (h : 0 < m) : fadd a b m < m := Nat.mod_lt _ h
theorem fsub_lt (a b : Nat) {m : Nat} (h : 0 < m) : fsub a b m < m := Nat.mod_lt _ h
theorem fmul_lt (a b : Nat) {m : Nat} (h : 0 < m) : fmul a b m < m := Nat.mod_lt _ h

/-- What the loop computes, for an exponent that the fuel covers. -/
theorem modexpLoop_eq (m fuel b e acc : Nat) (he : e < 2 ^ fuel) :
    modexpLoop m fuel b e acc % m = acc * b ^ e % m := by
  induction fuel generalizing b e acc with
  | zero =>
    simp only [Nat.pow_zero, Nat.lt_one_iff] at he
    simp [modexpLoop, he]
  | succ fuel ih =>
    simp only [modexpLoop]
    split
    case isTrue h => simp [h]
    case isFalse h =>
      have hsq : ∀ k, (b * b % m) ^ k % m = (b ^ (2 * k)) % m := fun k => by
        rw [← Nat.pow_mod, ← Nat.pow_two, ← Nat.pow_mul]
      rw [ih _ _ _ (by rw [Nat.pow_succ] at he; omega), Nat.mul_mod, hsq, ← Nat.mul_mod]
      split
      case isTrue h1 =>
        have e1 : e = 2 * (e / 2) + 1 := by omega
        rw [Nat.mul_mod, Nat.mod_mod, ← Nat.mul_mod]
        conv_rhs => rw [e1, Nat.pow_succ]
        rw [Nat.mul_assoc, Nat.mul_comm b]
      case isFalse h1 =>
        have e1 : e = 2 * (e / 2) := by omega
        rw [← e1]

theorem modexpLoop_lt (m fuel b e acc : Nat) (hm : 0 < m) (hacc : acc < m) : modexpLoop m fuel b e acc < m := by
  induction fuel generalizing b e acc with
  | zero => exact hacc
  | succ fuel ih =>
    simp only [modexpLoop]
    split
    · exact hacc
    · refine ih _ _ _ ?_
      split
      · exact Nat.mod_lt _ hm
      · exact hacc

theorem lt_two_pow_log2 (e : Nat) : e < 2 ^ (Nat.log2 e + 1) := by
  rcases Nat.eq_zero_or_pos e with rfl | h
  · simp
  · exact (Nat.log2_lt (by omega)).1 (Nat.lt_succ_self _)

theorem modexp_lt (b e : Nat) {m : Nat} (hm : 1 < m) : modexp b e m < m :=
  modexpLoop_lt m _ b e 1 (by omega) hm

/-- `modexp(b, e, m) = b^e mod m` (R18), for every modulus above 1. -/
theorem modexp_eq (b e : Nat) {m : Nat} (hm : 1 < m) : modexp b e m = b ^ e % m := by
  have h := modexpLoop_eq m _ b e 1 (lt_two_pow_log2 e)
  rw [Nat.one_mul] at h
  rw [← h]
  exact (Nat.mod_eq_of_lt (modexp_lt b e hm)).symm

/-- `modexp(b, 0, m) = 1` (R18). -/
@[simp] theorem modexp_zero (b m : Nat) : modexp b 0 m = 1 := rfl

theorem fpow_lt (a e : Nat) {m : Nat} (hm : 1 < m) : fpow a e m < m := by
  unfold fpow
  split
  · exact hm
  · exact modexp_lt _ _ hm

/-- All that `fdiv` can answer (R209): it raises exactly for divisor 0, else it is Fermat's formula. -/
theorem fdiv_eq (a b : Nat) {m : Nat} (hm : 1 < m) :
    fdiv a b m = if b = 0 then .error .divisionByZero else .ok (a * (b ^ (m - 2) % m) % m) := by
  simp only [fdiv, modexp_eq _ _ hm]

theorem fdiv_lt {a b m v : Nat} (hm : 0 < m) (h : fdiv a b m = .ok v) : v < m := by
  unfold fdiv at h
  split at h
  · cases h
  · cases h; exact Nat.mod_lt _ hm

theorem fdiv_of_ne {a b m : Nat} (h : b ≠ 0) : ∃ v, fdiv a b m = .ok v := ⟨_, if_neg h⟩

end Sys2Proof.Machine
end

