-- ==== Sys2Proof/Laws/Bytes.lean ====
section
/-!
SUPPORT. Big-endian encodings and their inverse (00_scope.md R15).
-/

namespace Sys2Proof.Machine

@[simp] theorem be_length (n v : Nat) : (be n v).length = n := by
  induction n generalizing v with
  | zero => rfl
  | succ n ih => simp [be, ih]

@[simp] theorem intBe_nil : intBe [] = 0 := rfl

theorem intBe_append_singleton (s : Bytes) (b : Byte) : intBe (s ++ [b]) = 256 * intBe s + b.toNat := by
  simp [intBe, List.foldl_append]

/-- `int_be` undoes `be_n` (R15). -/
theorem intBe_be (n v : Nat) (h : v < 256 ^ n) : intBe (be n v) = v := by
  induction n generalizing v with
  | zero => simp at h; simp [be, h]
  | succ n ih =>
    rw [Nat.pow_succ] at h
    rw [be, intBe_append_singleton, ih (v / 256) (by omega), BitVec.toNat_ofNat]
    omega

theorem intBe_be_256 (v : W256) : intBe (be 32 v.toNat) = v.toNat :=
  intBe_be 32 v.toNat v.isLt

/-- A leading zero byte does not count. -/
theorem intBe_cons_zero (s : Bytes) : intBe (0 :: s) = intBe s := by
  simp [intBe]

/-- Removing leading zero bytes does not change the integer. -/
theorem intBe_dropWhile_zero (s : Bytes) : intBe (s.dropWhile (· = 0)) = intBe s := by
  induction s with
  | nil => rfl
  | cons b s ih =>
    rw [List.dropWhile_cons]
    by_cases h : b = 0
    · subst h
      rw [if_pos (by decide), ih]
      exact (intBe_cons_zero s).symm
    · rw [if_neg (by simpa using h)]

/-- `minbe` loses nothing (R15). -/
theorem intBe_minbe (v : Nat) (h : v < 2 ^ 256) : intBe (minbe v) = v := by
  rw [minbe, intBe_dropWhile_zero, intBe_be 32 v (by simpa using h)]

/-- `minbe` has at most 32 bytes. -/
theorem minbe_length_le (v : Nat) : (minbe v).length ≤ 32 := by
  simpa [minbe] using (List.dropWhile_sublist (l := be 32 v) (fun x => decide (x = 0))).length_le

end Sys2Proof.Machine
end

