-- ==== Sys2Proof/Laws/Decode.lean ====
section
/-!
SUPPORT. The decoder and the encoder (30_encoding.md R141, R160-R162): fields survive the word, a script command survives
its bytes.
-/

namespace Sys2Proof

/-- The fields of the word made from fields are those fields (R141). -/
@[simp] theorem fieldsOf_wordOf (f : Fields) : fieldsOf (wordOf f) = f := by
  obtain ⟨⟨o, ho⟩, ⟨d, hd⟩, ⟨a, ha⟩, ⟨b, hb⟩, ⟨c, hc⟩, ⟨e, he⟩, ⟨m, hm⟩⟩ := f
  have hw : (wordOf ⟨⟨o, ho⟩, ⟨d, hd⟩, ⟨a, ha⟩, ⟨b, hb⟩, ⟨c, hc⟩, ⟨e, he⟩, ⟨m, hm⟩⟩).toNat
      = o + 2 ^ 8 * d + 2 ^ 12 * a + 2 ^ 16 * b + 2 ^ 20 * c + 2 ^ 24 * e + 2 ^ 28 * m := by
    rw [wordOf, BitVec.toNat_ofNat]
    exact Nat.mod_eq_of_lt (by dsimp only; omega)
  simp only [fieldsOf, nibble, hw, Fin.ofNat, Fields.mk.injEq, Fin.mk.injEq]
  refine ⟨?_, ?_, ?_, ?_, ?_, ?_, ?_⟩ <;> omega

/-- The word made from the fields of a word is that word (R141: the fields cover all 32 bits). -/
@[simp] theorem wordOf_fieldsOf (w : Word32) : wordOf (fieldsOf w) = w := by
  apply BitVec.eq_of_toNat_eq
  have := w.isLt
  simp only [wordOf, fieldsOf, nibble, Fin.ofNat, BitVec.toNat_ofNat]
  omega

theorem fieldMode_mode (f : FieldSel) : fieldMode f.mode = .ok f := by cases f <;> rfl
theorem curveMode_mode (c : CurveSel) : curveMode c.mode = .ok c := by cases c <;> rfl
theorem formMode_mode (f : SecForm) : formMode f.mode = .ok f := by cases f <;> rfl

theorem fieldMode_ok {m : RegIdx} {f : FieldSel} (h : fieldMode m = .ok f) : m = f.mode := by
  unfold fieldMode at h
  split at h <;> cases h <;> exact Fin.ext ‹_›

theorem curveMode_ok {m : RegIdx} {c : CurveSel} (h : curveMode m = .ok c) : m = c.mode := by
  unfold curveMode at h
  split at h <;> cases h <;> exact Fin.ext ‹_›

theorem formMode_ok {m : RegIdx} {f : SecForm} (h : formMode m = .ok f) : m = f.mode := by
  unfold formMode at h
  split at h <;> cases h <;> exact Fin.ext ‹_›

/-- A script command is read back from the front of any byte string that begins with its bytes (R160, R161, R162). -/
theorem decodeScriptCmd_bytes (c : ScriptCmd) (rest : Bytes) (h : c.wellFormed = true) :
    decodeScriptCmd (c.bytes ++ rest) = .ok (c, rest) := by
  cases c with
  | op o => cases o <;> rfl
  | push d =>
    have h : 1 ≤ d.length ∧ d.length ≤ Config.elemMax := by simpa [ScriptCmd.wellFormed] using h
    have hl : (BitVec.ofNat 8 d.length).toNat = d.length := by
      rw [BitVec.toNat_ofNat]
      exact Nat.mod_eq_of_lt (by have := h.2; simp only [Config.elemMax] at this; omega)
    simp only [ScriptCmd.bytes, List.cons_append, decodeScriptCmd, hl, h, and_self, if_true]
    rw [if_neg (by simp)]
    simp

/-- Reading one script command consumes at least one byte. -/
theorem decodeScriptCmd_length {d rest : Bytes} {c : ScriptCmd} (h : decodeScriptCmd d = .ok (c, rest)) :
    rest.length < d.length := by
  cases d with
  | nil => cases h
  | cons b d =>
    simp only [decodeScriptCmd] at h
    split at h
    · split at h
      · cases h
      · cases h; simp
    · split at h <;> cases h <;> simp

end Sys2Proof
end

