-- ==== Sys2Proof/Laws/State.lean ====
section
/-!
SUPPORT. One lemma per field per named update of State: what the update leaves in the field. A later proof rewrites with
these and never unfolds a record update.
-/

namespace Sys2Proof.Machine

variable (s : State)

/-! ### `State.setR`: R[i] <- (t, v) -/

@[simp] theorem State.setR_r (i : RegIdx) (t : Tag) (v : W256) : (s.setR i t v).r = s.r.set i.val { tag := t, val := v } i.isLt := rfl
@[simp] theorem State.setR_q (i : RegIdx) (t : Tag) (v : W256) : (s.setR i t v).q = s.q := rfl
@[simp] theorem State.setR_umv (i : RegIdx) (t : Tag) (v : W256) : (s.setR i t v).umv = s.umv := rfl
@[simp] theorem State.setR_um (i : RegIdx) (t : Tag) (v : W256) : (s.setR i t v).um = s.um := rfl
@[simp] theorem State.setR_ucv (i : RegIdx) (t : Tag) (v : W256) : (s.setR i t v).ucv = s.ucv := rfl
@[simp] theorem State.setR_ua (i : RegIdx) (t : Tag) (v : W256) : (s.setR i t v).ua = s.ua := rfl
@[simp] theorem State.setR_ub (i : RegIdx) (t : Tag) (v : W256) : (s.setR i t v).ub = s.ub := rfl
@[simp] theorem State.setR_kv (i : RegIdx) (t : Tag) (v : W256) : (s.setR i t v).kv = s.kv := rfl
@[simp] theorem State.setR_ksec (i : RegIdx) (t : Tag) (v : W256) : (s.setR i t v).ksec = s.ksec := rfl
@[simp] theorem State.setR_kpubx (i : RegIdx) (t : Tag) (v : W256) : (s.setR i t v).kpubx = s.kpubx := rfl
@[simp] theorem State.setR_kpuby (i : RegIdx) (t : Tag) (v : W256) : (s.setR i t v).kpuby = s.kpuby := rfl
@[simp] theorem State.setR_ie (i : RegIdx) (t : Tag) (v : W256) : (s.setR i t v).ie = s.ie := rfl
@[simp] theorem State.setR_done (i : RegIdx) (t : Tag) (v : W256) : (s.setR i t v).done = s.done := rfl
@[simp] theorem State.setR_err (i : RegIdx) (t : Tag) (v : W256) : (s.setR i t v).err = s.err := rfl
@[simp] theorem State.setR_fatal (i : RegIdx) (t : Tag) (v : W256) : (s.setR i t v).fatal = s.fatal := rfl
@[simp] theorem State.setR_wdrop (i : RegIdx) (t : Tag) (v : W256) : (s.setR i t v).wdrop = s.wdrop := rfl
@[simp] theorem State.setR_errcode (i : RegIdx) (t : Tag) (v : W256) : (s.setR i t v).errcode = s.errcode := rfl
@[simp] theorem State.setR_lastcmd (i : RegIdx) (t : Tag) (v : W256) : (s.setR i t v).lastcmd = s.lastcmd := rfl
@[simp] theorem State.setR_pending (i : RegIdx) (t : Tag) (v : W256) : (s.setR i t v).pending = s.pending := rfl
@[simp] theorem State.setR_buf (i : RegIdx) (t : Tag) (v : W256) : (s.setR i t v).buf = s.buf := rfl
@[simp] theorem State.setR_eval (i : RegIdx) (t : Tag) (v : W256) : (s.setR i t v).eval = s.eval := rfl
@[simp] theorem State.setR_params (i : RegIdx) (t : Tag) (v : W256) : (s.setR i t v).params = s.params := rfl
@[simp] theorem State.setR_schedule (i : RegIdx) (t : Tag) (v : W256) : (s.setR i t v).schedule = s.schedule := rfl
@[simp] theorem State.setR_rdata (i : RegIdx) (t : Tag) (v : W256) : (s.setR i t v).rdata = s.rdata := rfl
@[simp] theorem State.setR_draw (i : RegIdx) (t : Tag) (v : W256) : (s.setR i t v).draw = s.draw := rfl

/-! ### `State.setInt`: R[i] <- (INT, n) -/

@[simp] theorem State.setInt_r (i : RegIdx) (n : Nat) : (s.setInt i n).r = s.r.set i.val { tag := .int, val := toW n } i.isLt := rfl
@[simp] theorem State.setInt_q (i : RegIdx) (n : Nat) : (s.setInt i n).q = s.q := rfl
@[simp] theorem State.setInt_umv (i : RegIdx) (n : Nat) : (s.setInt i n).umv = s.umv := rfl
@[simp] theorem State.setInt_um (i : RegIdx) (n : Nat) : (s.setInt i n).um = s.um := rfl
@[simp] theorem State.setInt_ucv (i : RegIdx) (n : Nat) : (s.setInt i n).ucv = s.ucv := rfl
@[simp] theorem State.setInt_ua (i : RegIdx) (n : Nat) : (s.setInt i n).ua = s.ua := rfl
@[simp] theorem State.setInt_ub (i : RegIdx) (n : Nat) : (s.setInt i n).ub = s.ub := rfl
@[simp] theorem State.setInt_kv (i : RegIdx) (n : Nat) : (s.setInt i n).kv = s.kv := rfl
@[simp] theorem State.setInt_ksec (i : RegIdx) (n : Nat) : (s.setInt i n).ksec = s.ksec := rfl
@[simp] theorem State.setInt_kpubx (i : RegIdx) (n : Nat) : (s.setInt i n).kpubx = s.kpubx := rfl
@[simp] theorem State.setInt_kpuby (i : RegIdx) (n : Nat) : (s.setInt i n).kpuby = s.kpuby := rfl
@[simp] theorem State.setInt_ie (i : RegIdx) (n : Nat) : (s.setInt i n).ie = s.ie := rfl
@[simp] theorem State.setInt_done (i : RegIdx) (n : Nat) : (s.setInt i n).done = s.done := rfl
@[simp] theorem State.setInt_err (i : RegIdx) (n : Nat) : (s.setInt i n).err = s.err := rfl
@[simp] theorem State.setInt_fatal (i : RegIdx) (n : Nat) : (s.setInt i n).fatal = s.fatal := rfl
@[simp] theorem State.setInt_wdrop (i : RegIdx) (n : Nat) : (s.setInt i n).wdrop = s.wdrop := rfl
@[simp] theorem State.setInt_errcode (i : RegIdx) (n : Nat) : (s.setInt i n).errcode = s.errcode := rfl
@[simp] theorem State.setInt_lastcmd (i : RegIdx) (n : Nat) : (s.setInt i n).lastcmd = s.lastcmd := rfl
@[simp] theorem State.setInt_pending (i : RegIdx) (n : Nat) : (s.setInt i n).pending = s.pending := rfl
@[simp] theorem State.setInt_buf (i : RegIdx) (n : Nat) : (s.setInt i n).buf = s.buf := rfl
@[simp] theorem State.setInt_eval (i : RegIdx) (n : Nat) : (s.setInt i n).eval = s.eval := rfl
@[simp] theorem State.setInt_params (i : RegIdx) (n : Nat) : (s.setInt i n).params = s.params := rfl
@[simp] theorem State.setInt_schedule (i : RegIdx) (n : Nat) : (s.setInt i n).schedule = s.schedule := rfl
@[simp] theorem State.setInt_rdata (i : RegIdx) (n : Nat) : (s.setInt i n).rdata = s.rdata := rfl
@[simp] theorem State.setInt_draw (i : RegIdx) (n : Nat) : (s.setInt i n).draw = s.draw := rfl

/-! ### `State.setQ`: Q[i] <- x -/

@[simp] theorem State.setQ_r (i : RegIdx) (x : QReg) : (s.setQ i x).r = s.r := rfl
@[simp] theorem State.setQ_q (i : RegIdx) (x : QReg) : (s.setQ i x).q = s.q.set i.val x i.isLt := rfl
@[simp] theorem State.setQ_umv (i : RegIdx) (x : QReg) : (s.setQ i x).umv = s.umv := rfl
@[simp] theorem State.setQ_um (i : RegIdx) (x : QReg) : (s.setQ i x).um = s.um := rfl
@[simp] theorem State.setQ_ucv (i : RegIdx) (x : QReg) : (s.setQ i x).ucv = s.ucv := rfl
@[simp] theorem State.setQ_ua (i : RegIdx) (x : QReg) : (s.setQ i x).ua = s.ua := rfl
@[simp] theorem State.setQ_ub (i : RegIdx) (x : QReg) : (s.setQ i x).ub = s.ub := rfl
@[simp] theorem State.setQ_kv (i : RegIdx) (x : QReg) : (s.setQ i x).kv = s.kv := rfl
@[simp] theorem State.setQ_ksec (i : RegIdx) (x : QReg) : (s.setQ i x).ksec = s.ksec := rfl
@[simp] theorem State.setQ_kpubx (i : RegIdx) (x : QReg) : (s.setQ i x).kpubx = s.kpubx := rfl
@[simp] theorem State.setQ_kpuby (i : RegIdx) (x : QReg) : (s.setQ i x).kpuby = s.kpuby := rfl
@[simp] theorem State.setQ_ie (i : RegIdx) (x : QReg) : (s.setQ i x).ie = s.ie := rfl
@[simp] theorem State.setQ_done (i : RegIdx) (x : QReg) : (s.setQ i x).done = s.done := rfl
@[simp] theorem State.setQ_err (i : RegIdx) (x : QReg) : (s.setQ i x).err = s.err := rfl
@[simp] theorem State.setQ_fatal (i : RegIdx) (x : QReg) : (s.setQ i x).fatal = s.fatal := rfl
@[simp] theorem State.setQ_wdrop (i : RegIdx) (x : QReg) : (s.setQ i x).wdrop = s.wdrop := rfl
@[simp] theorem State.setQ_errcode (i : RegIdx) (x : QReg) : (s.setQ i x).errcode = s.errcode := rfl
@[simp] theorem State.setQ_lastcmd (i : RegIdx) (x : QReg) : (s.setQ i x).lastcmd = s.lastcmd := rfl
@[simp] theorem State.setQ_pending (i : RegIdx) (x : QReg) : (s.setQ i x).pending = s.pending := rfl
@[simp] theorem State.setQ_buf (i : RegIdx) (x : QReg) : (s.setQ i x).buf = s.buf := rfl
@[simp] theorem State.setQ_eval (i : RegIdx) (x : QReg) : (s.setQ i x).eval = s.eval := rfl
@[simp] theorem State.setQ_params (i : RegIdx) (x : QReg) : (s.setQ i x).params = s.params := rfl
@[simp] theorem State.setQ_schedule (i : RegIdx) (x : QReg) : (s.setQ i x).schedule = s.schedule := rfl
@[simp] theorem State.setQ_rdata (i : RegIdx) (x : QReg) : (s.setQ i x).rdata = s.rdata := rfl
@[simp] theorem State.setQ_draw (i : RegIdx) (x : QReg) : (s.setQ i x).draw = s.draw := rfl

/-! ### `State.clearUserElements`: the first loop of R202 -/

@[simp] theorem State.clearUserElements_r : (s.clearUserElements).r = mapFile clearIfFU s.r := rfl
@[simp] theorem State.clearUserElements_q : (s.clearUserElements).q = s.q := rfl
@[simp] theorem State.clearUserElements_umv : (s.clearUserElements).umv = s.umv := rfl
@[simp] theorem State.clearUserElements_um : (s.clearUserElements).um = s.um := rfl
@[simp] theorem State.clearUserElements_ucv : (s.clearUserElements).ucv = s.ucv := rfl
@[simp] theorem State.clearUserElements_ua : (s.clearUserElements).ua = s.ua := rfl
@[simp] theorem State.clearUserElements_ub : (s.clearUserElements).ub = s.ub := rfl
@[simp] theorem State.clearUserElements_kv : (s.clearUserElements).kv = s.kv := rfl
@[simp] theorem State.clearUserElements_ksec : (s.clearUserElements).ksec = s.ksec := rfl
@[simp] theorem State.clearUserElements_kpubx : (s.clearUserElements).kpubx = s.kpubx := rfl
@[simp] theorem State.clearUserElements_kpuby : (s.clearUserElements).kpuby = s.kpuby := rfl
@[simp] theorem State.clearUserElements_ie : (s.clearUserElements).ie = s.ie := rfl
@[simp] theorem State.clearUserElements_done : (s.clearUserElements).done = s.done := rfl
@[simp] theorem State.clearUserElements_err : (s.clearUserElements).err = s.err := rfl
@[simp] theorem State.clearUserElements_fatal : (s.clearUserElements).fatal = s.fatal := rfl
@[simp] theorem State.clearUserElements_wdrop : (s.clearUserElements).wdrop = s.wdrop := rfl
@[simp] theorem State.clearUserElements_errcode : (s.clearUserElements).errcode = s.errcode := rfl
@[simp] theorem State.clearUserElements_lastcmd : (s.clearUserElements).lastcmd = s.lastcmd := rfl
@[simp] theorem State.clearUserElements_pending : (s.clearUserElements).pending = s.pending := rfl
@[simp] theorem State.clearUserElements_buf : (s.clearUserElements).buf = s.buf := rfl
@[simp] theorem State.clearUserElements_eval : (s.clearUserElements).eval = s.eval := rfl
@[simp] theorem State.clearUserElements_params : (s.clearUserElements).params = s.params := rfl
@[simp] theorem State.clearUserElements_schedule : (s.clearUserElements).schedule = s.schedule := rfl
@[simp] theorem State.clearUserElements_rdata : (s.clearUserElements).rdata = s.rdata := rfl
@[simp] theorem State.clearUserElements_draw : (s.clearUserElements).draw = s.draw := rfl

/-! ### `State.clearUserPoints`: the loop over Q of R202 and R251 -/

@[simp] theorem State.clearUserPoints_r : (s.clearUserPoints).r = s.r := rfl
@[simp] theorem State.clearUserPoints_q : (s.clearUserPoints).q = mapFile clearIfUser s.q := rfl
@[simp] theorem State.clearUserPoints_umv : (s.clearUserPoints).umv = s.umv := rfl
@[simp] theorem State.clearUserPoints_um : (s.clearUserPoints).um = s.um := rfl
@[simp] theorem State.clearUserPoints_ucv : (s.clearUserPoints).ucv = s.ucv := rfl
@[simp] theorem State.clearUserPoints_ua : (s.clearUserPoints).ua = s.ua := rfl
@[simp] theorem State.clearUserPoints_ub : (s.clearUserPoints).ub = s.ub := rfl
@[simp] theorem State.clearUserPoints_kv : (s.clearUserPoints).kv = s.kv := rfl
@[simp] theorem State.clearUserPoints_ksec : (s.clearUserPoints).ksec = s.ksec := rfl
@[simp] theorem State.clearUserPoints_kpubx : (s.clearUserPoints).kpubx = s.kpubx := rfl
@[simp] theorem State.clearUserPoints_kpuby : (s.clearUserPoints).kpuby = s.kpuby := rfl
@[simp] theorem State.clearUserPoints_ie : (s.clearUserPoints).ie = s.ie := rfl
@[simp] theorem State.clearUserPoints_done : (s.clearUserPoints).done = s.done := rfl
@[simp] theorem State.clearUserPoints_err : (s.clearUserPoints).err = s.err := rfl
@[simp] theorem State.clearUserPoints_fatal : (s.clearUserPoints).fatal = s.fatal := rfl
@[simp] theorem State.clearUserPoints_wdrop : (s.clearUserPoints).wdrop = s.wdrop := rfl
@[simp] theorem State.clearUserPoints_errcode : (s.clearUserPoints).errcode = s.errcode := rfl
@[simp] theorem State.clearUserPoints_lastcmd : (s.clearUserPoints).lastcmd = s.lastcmd := rfl
@[simp] theorem State.clearUserPoints_pending : (s.clearUserPoints).pending = s.pending := rfl
@[simp] theorem State.clearUserPoints_buf : (s.clearUserPoints).buf = s.buf := rfl
@[simp] theorem State.clearUserPoints_eval : (s.clearUserPoints).eval = s.eval := rfl
@[simp] theorem State.clearUserPoints_params : (s.clearUserPoints).params = s.params := rfl
@[simp] theorem State.clearUserPoints_schedule : (s.clearUserPoints).schedule = s.schedule := rfl
@[simp] theorem State.clearUserPoints_rdata : (s.clearUserPoints).rdata = s.rdata := rfl
@[simp] theorem State.clearUserPoints_draw : (s.clearUserPoints).draw = s.draw := rfl

/-! ### `State.setUserModulus`: MSET's writes -/

@[simp] theorem State.setUserModulus_r (n : Nat) : (s.setUserModulus n).r = mapFile clearIfFU s.r := rfl
@[simp] theorem State.setUserModulus_q (n : Nat) : (s.setUserModulus n).q = mapFile clearIfUser s.q := rfl
@[simp] theorem State.setUserModulus_umv (n : Nat) : (s.setUserModulus n).umv = true := rfl
@[simp] theorem State.setUserModulus_um (n : Nat) : (s.setUserModulus n).um = toW n := rfl
@[simp] theorem State.setUserModulus_ucv (n : Nat) : (s.setUserModulus n).ucv = false := rfl
@[simp] theorem State.setUserModulus_ua (n : Nat) : (s.setUserModulus n).ua = 0 := rfl
@[simp] theorem State.setUserModulus_ub (n : Nat) : (s.setUserModulus n).ub = 0 := rfl
@[simp] theorem State.setUserModulus_kv (n : Nat) : (s.setUserModulus n).kv = s.kv := rfl
@[simp] theorem State.setUserModulus_ksec (n : Nat) : (s.setUserModulus n).ksec = s.ksec := rfl
@[simp] theorem State.setUserModulus_kpubx (n : Nat) : (s.setUserModulus n).kpubx = s.kpubx := rfl
@[simp] theorem State.setUserModulus_kpuby (n : Nat) : (s.setUserModulus n).kpuby = s.kpuby := rfl
@[simp] theorem State.setUserModulus_ie (n : Nat) : (s.setUserModulus n).ie = s.ie := rfl
@[simp] theorem State.setUserModulus_done (n : Nat) : (s.setUserModulus n).done = s.done := rfl
@[simp] theorem State.setUserModulus_err (n : Nat) : (s.setUserModulus n).err = s.err := rfl
@[simp] theorem State.setUserModulus_fatal (n : Nat) : (s.setUserModulus n).fatal = s.fatal := rfl
@[simp] theorem State.setUserModulus_wdrop (n : Nat) : (s.setUserModulus n).wdrop = s.wdrop := rfl
@[simp] theorem State.setUserModulus_errcode (n : Nat) : (s.setUserModulus n).errcode = s.errcode := rfl
@[simp] theorem State.setUserModulus_lastcmd (n : Nat) : (s.setUserModulus n).lastcmd = s.lastcmd := rfl
@[simp] theorem State.setUserModulus_pending (n : Nat) : (s.setUserModulus n).pending = s.pending := rfl
@[simp] theorem State.setUserModulus_buf (n : Nat) : (s.setUserModulus n).buf = s.buf := rfl
@[simp] theorem State.setUserModulus_eval (n : Nat) : (s.setUserModulus n).eval = s.eval := rfl
@[simp] theorem State.setUserModulus_params (n : Nat) : (s.setUserModulus n).params = s.params := rfl
@[simp] theorem State.setUserModulus_schedule (n : Nat) : (s.setUserModulus n).schedule = s.schedule := rfl
@[simp] theorem State.setUserModulus_rdata (n : Nat) : (s.setUserModulus n).rdata = s.rdata := rfl
@[simp] theorem State.setUserModulus_draw (n : Nat) : (s.setUserModulus n).draw = s.draw := rfl

/-! ### `State.setUserCurve`: CSET's writes -/

@[simp] theorem State.setUserCurve_r (a b : Nat) : (s.setUserCurve a b).r = s.r := rfl
@[simp] theorem State.setUserCurve_q (a b : Nat) : (s.setUserCurve a b).q = mapFile clearIfUser s.q := rfl
@[simp] theorem State.setUserCurve_umv (a b : Nat) : (s.setUserCurve a b).umv = s.umv := rfl
@[simp] theorem State.setUserCurve_um (a b : Nat) : (s.setUserCurve a b).um = s.um := rfl
@[simp] theorem State.setUserCurve_ucv (a b : Nat) : (s.setUserCurve a b).ucv = true := rfl
@[simp] theorem State.setUserCurve_ua (a b : Nat) : (s.setUserCurve a b).ua = toW a := rfl
@[simp] theorem State.setUserCurve_ub (a b : Nat) : (s.setUserCurve a b).ub = toW b := rfl
@[simp] theorem State.setUserCurve_kv (a b : Nat) : (s.setUserCurve a b).kv = s.kv := rfl
@[simp] theorem State.setUserCurve_ksec (a b : Nat) : (s.setUserCurve a b).ksec = s.ksec := rfl
@[simp] theorem State.setUserCurve_kpubx (a b : Nat) : (s.setUserCurve a b).kpubx = s.kpubx := rfl
@[simp] theorem State.setUserCurve_kpuby (a b : Nat) : (s.setUserCurve a b).kpuby = s.kpuby := rfl
@[simp] theorem State.setUserCurve_ie (a b : Nat) : (s.setUserCurve a b).ie = s.ie := rfl
@[simp] theorem State.setUserCurve_done (a b : Nat) : (s.setUserCurve a b).done = s.done := rfl
@[simp] theorem State.setUserCurve_err (a b : Nat) : (s.setUserCurve a b).err = s.err := rfl
@[simp] theorem State.setUserCurve_fatal (a b : Nat) : (s.setUserCurve a b).fatal = s.fatal := rfl
@[simp] theorem State.setUserCurve_wdrop (a b : Nat) : (s.setUserCurve a b).wdrop = s.wdrop := rfl
@[simp] theorem State.setUserCurve_errcode (a b : Nat) : (s.setUserCurve a b).errcode = s.errcode := rfl
@[simp] theorem State.setUserCurve_lastcmd (a b : Nat) : (s.setUserCurve a b).lastcmd = s.lastcmd := rfl
@[simp] theorem State.setUserCurve_pending (a b : Nat) : (s.setUserCurve a b).pending = s.pending := rfl
@[simp] theorem State.setUserCurve_buf (a b : Nat) : (s.setUserCurve a b).buf = s.buf := rfl
@[simp] theorem State.setUserCurve_eval (a b : Nat) : (s.setUserCurve a b).eval = s.eval := rfl
@[simp] theorem State.setUserCurve_params (a b : Nat) : (s.setUserCurve a b).params = s.params := rfl
@[simp] theorem State.setUserCurve_schedule (a b : Nat) : (s.setUserCurve a b).schedule = s.schedule := rfl
@[simp] theorem State.setUserCurve_rdata (a b : Nat) : (s.setUserCurve a b).rdata = s.rdata := rfl
@[simp] theorem State.setUserCurve_draw (a b : Nat) : (s.setUserCurve a b).draw = s.draw := rfl

/-! ### `State.loadKey`: KLOAD's writes -/

@[simp] theorem State.loadKey_r (i : RegIdx) (e : Nat) (p : Pt) : (s.loadKey i e p).r = s.r := rfl
@[simp] theorem State.loadKey_q (i : RegIdx) (e : Nat) (p : Pt) : (s.loadKey i e p).q = s.q.set i.val (pointReg .secp p) i.isLt := rfl
@[simp] theorem State.loadKey_umv (i : RegIdx) (e : Nat) (p : Pt) : (s.loadKey i e p).umv = s.umv := rfl
@[simp] theorem State.loadKey_um (i : RegIdx) (e : Nat) (p : Pt) : (s.loadKey i e p).um = s.um := rfl
@[simp] theorem State.loadKey_ucv (i : RegIdx) (e : Nat) (p : Pt) : (s.loadKey i e p).ucv = s.ucv := rfl
@[simp] theorem State.loadKey_ua (i : RegIdx) (e : Nat) (p : Pt) : (s.loadKey i e p).ua = s.ua := rfl
@[simp] theorem State.loadKey_ub (i : RegIdx) (e : Nat) (p : Pt) : (s.loadKey i e p).ub = s.ub := rfl
@[simp] theorem State.loadKey_kv (i : RegIdx) (e : Nat) (p : Pt) : (s.loadKey i e p).kv = true := rfl
@[simp] theorem State.loadKey_ksec (i : RegIdx) (e : Nat) (p : Pt) : (s.loadKey i e p).ksec = toW e := rfl
@[simp] theorem State.loadKey_kpubx (i : RegIdx) (e : Nat) (p : Pt) : (s.loadKey i e p).kpubx = toW p.xOr0 := rfl
@[simp] theorem State.loadKey_kpuby (i : RegIdx) (e : Nat) (p : Pt) : (s.loadKey i e p).kpuby = toW p.yOr0 := rfl
@[simp] theorem State.loadKey_ie (i : RegIdx) (e : Nat) (p : Pt) : (s.loadKey i e p).ie = s.ie := rfl
@[simp] theorem State.loadKey_done (i : RegIdx) (e : Nat) (p : Pt) : (s.loadKey i e p).done = s.done := rfl
@[simp] theorem State.loadKey_err (i : RegIdx) (e : Nat) (p : Pt) : (s.loadKey i e p).err = s.err := rfl
@[simp] theorem State.loadKey_fatal (i : RegIdx) (e : Nat) (p : Pt) : (s.loadKey i e p).fatal = s.fatal := rfl
@[simp] theorem State.loadKey_wdrop (i : RegIdx) (e : Nat) (p : Pt) : (s.loadKey i e p).wdrop = s.wdrop := rfl
@[simp] theorem State.loadKey_errcode (i : RegIdx) (e : Nat) (p : Pt) : (s.loadKey i e p).errcode = s.errcode := rfl
@[simp] theorem State.loadKey_lastcmd (i : RegIdx) (e : Nat) (p : Pt) : (s.loadKey i e p).lastcmd = s.lastcmd := rfl
@[simp] theorem State.loadKey_pending (i : RegIdx) (e : Nat) (p : Pt) : (s.loadKey i e p).pending = s.pending := rfl
@[simp] theorem State.loadKey_buf (i : RegIdx) (e : Nat) (p : Pt) : (s.loadKey i e p).buf = s.buf := rfl
@[simp] theorem State.loadKey_eval (i : RegIdx) (e : Nat) (p : Pt) : (s.loadKey i e p).eval = s.eval := rfl
@[simp] theorem State.loadKey_params (i : RegIdx) (e : Nat) (p : Pt) : (s.loadKey i e p).params = s.params := rfl
@[simp] theorem State.loadKey_schedule (i : RegIdx) (e : Nat) (p : Pt) : (s.loadKey i e p).schedule = s.schedule := rfl
@[simp] theorem State.loadKey_rdata (i : RegIdx) (e : Nat) (p : Pt) : (s.loadKey i e p).rdata = s.rdata := rfl
@[simp] theorem State.loadKey_draw (i : RegIdx) (e : Nat) (p : Pt) : (s.loadKey i e p).draw = s.draw := rfl

/-! ### `State.writeByte`: one BUF byte -/

@[simp] theorem State.writeByte_r (a : Nat) (v : Byte) : (s.writeByte a v).r = s.r := rfl
@[simp] theorem State.writeByte_q (a : Nat) (v : Byte) : (s.writeByte a v).q = s.q := rfl
@[simp] theorem State.writeByte_umv (a : Nat) (v : Byte) : (s.writeByte a v).umv = s.umv := rfl
@[simp] theorem State.writeByte_um (a : Nat) (v : Byte) : (s.writeByte a v).um = s.um := rfl
@[simp] theorem State.writeByte_ucv (a : Nat) (v : Byte) : (s.writeByte a v).ucv = s.ucv := rfl
@[simp] theorem State.writeByte_ua (a : Nat) (v : Byte) : (s.writeByte a v).ua = s.ua := rfl
@[simp] theorem State.writeByte_ub (a : Nat) (v : Byte) : (s.writeByte a v).ub = s.ub := rfl
@[simp] theorem State.writeByte_kv (a : Nat) (v : Byte) : (s.writeByte a v).kv = s.kv := rfl
@[simp] theorem State.writeByte_ksec (a : Nat) (v : Byte) : (s.writeByte a v).ksec = s.ksec := rfl
@[simp] theorem State.writeByte_kpubx (a : Nat) (v : Byte) : (s.writeByte a v).kpubx = s.kpubx := rfl
@[simp] theorem State.writeByte_kpuby (a : Nat) (v : Byte) : (s.writeByte a v).kpuby = s.kpuby := rfl
@[simp] theorem State.writeByte_ie (a : Nat) (v : Byte) : (s.writeByte a v).ie = s.ie := rfl
@[simp] theorem State.writeByte_done (a : Nat) (v : Byte) : (s.writeByte a v).done = s.done := rfl
@[simp] theorem State.writeByte_err (a : Nat) (v : Byte) : (s.writeByte a v).err = s.err := rfl
@[simp] theorem State.writeByte_fatal (a : Nat) (v : Byte) : (s.writeByte a v).fatal = s.fatal := rfl
@[simp] theorem State.writeByte_wdrop (a : Nat) (v : Byte) : (s.writeByte a v).wdrop = s.wdrop := rfl
@[simp] theorem State.writeByte_errcode (a : Nat) (v : Byte) : (s.writeByte a v).errcode = s.errcode := rfl
@[simp] theorem State.writeByte_lastcmd (a : Nat) (v : Byte) : (s.writeByte a v).lastcmd = s.lastcmd := rfl
@[simp] theorem State.writeByte_pending (a : Nat) (v : Byte) : (s.writeByte a v).pending = s.pending := rfl
@[simp] theorem State.writeByte_buf (a : Nat) (v : Byte) : (s.writeByte a v).buf = s.buf.set a v := rfl
@[simp] theorem State.writeByte_eval (a : Nat) (v : Byte) : (s.writeByte a v).eval = s.eval := rfl
@[simp] theorem State.writeByte_params (a : Nat) (v : Byte) : (s.writeByte a v).params = s.params := rfl
@[simp] theorem State.writeByte_schedule (a : Nat) (v : Byte) : (s.writeByte a v).schedule = s.schedule := rfl
@[simp] theorem State.writeByte_rdata (a : Nat) (v : Byte) : (s.writeByte a v).rdata = s.rdata := rfl
@[simp] theorem State.writeByte_draw (a : Nat) (v : Byte) : (s.writeByte a v).draw = s.draw := rfl

/-! ### `State.finish`: the end of a completion -/

@[simp] theorem State.finish_r : (s.finish).r = s.r := rfl
@[simp] theorem State.finish_q : (s.finish).q = s.q := rfl
@[simp] theorem State.finish_umv : (s.finish).umv = s.umv := rfl
@[simp] theorem State.finish_um : (s.finish).um = s.um := rfl
@[simp] theorem State.finish_ucv : (s.finish).ucv = s.ucv := rfl
@[simp] theorem State.finish_ua : (s.finish).ua = s.ua := rfl
@[simp] theorem State.finish_ub : (s.finish).ub = s.ub := rfl
@[simp] theorem State.finish_kv : (s.finish).kv = s.kv := rfl
@[simp] theorem State.finish_ksec : (s.finish).ksec = s.ksec := rfl
@[simp] theorem State.finish_kpubx : (s.finish).kpubx = s.kpubx := rfl
@[simp] theorem State.finish_kpuby : (s.finish).kpuby = s.kpuby := rfl
@[simp] theorem State.finish_ie : (s.finish).ie = s.ie := rfl
@[simp] theorem State.finish_done : (s.finish).done = true := rfl
@[simp] theorem State.finish_err : (s.finish).err = s.err := rfl
@[simp] theorem State.finish_fatal : (s.finish).fatal = s.fatal := rfl
@[simp] theorem State.finish_wdrop : (s.finish).wdrop = s.wdrop := rfl
@[simp] theorem State.finish_errcode : (s.finish).errcode = s.errcode := rfl
@[simp] theorem State.finish_lastcmd : (s.finish).lastcmd = s.lastcmd := rfl
@[simp] theorem State.finish_pending : (s.finish).pending = none := rfl
@[simp] theorem State.finish_buf : (s.finish).buf = s.buf := rfl
@[simp] theorem State.finish_eval : (s.finish).eval = none := rfl
@[simp] theorem State.finish_params : (s.finish).params = s.params := rfl
@[simp] theorem State.finish_schedule : (s.finish).schedule = s.schedule := rfl
@[simp] theorem State.finish_rdata : (s.finish).rdata = s.rdata := rfl
@[simp] theorem State.finish_draw : (s.finish).draw = s.draw := rfl

/-! ### `State.fail`: completion with an error -/

@[simp] theorem State.fail_r (e : Err) : (s.fail e).r = s.r := rfl
@[simp] theorem State.fail_q (e : Err) : (s.fail e).q = s.q := rfl
@[simp] theorem State.fail_umv (e : Err) : (s.fail e).umv = s.umv := rfl
@[simp] theorem State.fail_um (e : Err) : (s.fail e).um = s.um := rfl
@[simp] theorem State.fail_ucv (e : Err) : (s.fail e).ucv = s.ucv := rfl
@[simp] theorem State.fail_ua (e : Err) : (s.fail e).ua = s.ua := rfl
@[simp] theorem State.fail_ub (e : Err) : (s.fail e).ub = s.ub := rfl
@[simp] theorem State.fail_kv (e : Err) : (s.fail e).kv = s.kv := rfl
@[simp] theorem State.fail_ksec (e : Err) : (s.fail e).ksec = s.ksec := rfl
@[simp] theorem State.fail_kpubx (e : Err) : (s.fail e).kpubx = s.kpubx := rfl
@[simp] theorem State.fail_kpuby (e : Err) : (s.fail e).kpuby = s.kpuby := rfl
@[simp] theorem State.fail_ie (e : Err) : (s.fail e).ie = s.ie := rfl
@[simp] theorem State.fail_done (e : Err) : (s.fail e).done = true := rfl
@[simp] theorem State.fail_err (e : Err) : (s.fail e).err = true := rfl
@[simp] theorem State.fail_fatal (e : Err) : (s.fail e).fatal = (s.fatal || e.isFatal) := rfl
@[simp] theorem State.fail_wdrop (e : Err) : (s.fail e).wdrop = s.wdrop := rfl
@[simp] theorem State.fail_errcode (e : Err) : (s.fail e).errcode = some e := rfl
@[simp] theorem State.fail_lastcmd (e : Err) : (s.fail e).lastcmd = s.lastcmd := rfl
@[simp] theorem State.fail_pending (e : Err) : (s.fail e).pending = none := rfl
@[simp] theorem State.fail_buf (e : Err) : (s.fail e).buf = s.buf := rfl
@[simp] theorem State.fail_eval (e : Err) : (s.fail e).eval = none := rfl
@[simp] theorem State.fail_params (e : Err) : (s.fail e).params = s.params := rfl
@[simp] theorem State.fail_schedule (e : Err) : (s.fail e).schedule = s.schedule := rfl
@[simp] theorem State.fail_rdata (e : Err) : (s.fail e).rdata = s.rdata := rfl
@[simp] theorem State.fail_draw (e : Err) : (s.fail e).draw = s.draw := rfl

/-! ### `State.accept`: acceptance of a command -/

@[simp] theorem State.accept_r (w : Word32) : (s.accept w).r = s.r := rfl
@[simp] theorem State.accept_q (w : Word32) : (s.accept w).q = s.q := rfl
@[simp] theorem State.accept_umv (w : Word32) : (s.accept w).umv = s.umv := rfl
@[simp] theorem State.accept_um (w : Word32) : (s.accept w).um = s.um := rfl
@[simp] theorem State.accept_ucv (w : Word32) : (s.accept w).ucv = s.ucv := rfl
@[simp] theorem State.accept_ua (w : Word32) : (s.accept w).ua = s.ua := rfl
@[simp] theorem State.accept_ub (w : Word32) : (s.accept w).ub = s.ub := rfl
@[simp] theorem State.accept_kv (w : Word32) : (s.accept w).kv = s.kv := rfl
@[simp] theorem State.accept_ksec (w : Word32) : (s.accept w).ksec = s.ksec := rfl
@[simp] theorem State.accept_kpubx (w : Word32) : (s.accept w).kpubx = s.kpubx := rfl
@[simp] theorem State.accept_kpuby (w : Word32) : (s.accept w).kpuby = s.kpuby := rfl
@[simp] theorem State.accept_ie (w : Word32) : (s.accept w).ie = s.ie := rfl
@[simp] theorem State.accept_done (w : Word32) : (s.accept w).done = false := rfl
@[simp] theorem State.accept_err (w : Word32) : (s.accept w).err = false := rfl
@[simp] theorem State.accept_fatal (w : Word32) : (s.accept w).fatal = s.fatal := rfl
@[simp] theorem State.accept_wdrop (w : Word32) : (s.accept w).wdrop = s.wdrop := rfl
@[simp] theorem State.accept_errcode (w : Word32) : (s.accept w).errcode = none := rfl
@[simp] theorem State.accept_lastcmd (w : Word32) : (s.accept w).lastcmd = w := rfl
@[simp] theorem State.accept_pending (w : Word32) : (s.accept w).pending = some w := rfl
@[simp] theorem State.accept_buf (w : Word32) : (s.accept w).buf = s.buf := rfl
@[simp] theorem State.accept_eval (w : Word32) : (s.accept w).eval = s.eval := rfl
@[simp] theorem State.accept_params (w : Word32) : (s.accept w).params = s.params := rfl
@[simp] theorem State.accept_schedule (w : Word32) : (s.accept w).schedule = s.schedule := rfl
@[simp] theorem State.accept_rdata (w : Word32) : (s.accept w).rdata = s.rdata := rfl
@[simp] theorem State.accept_draw (w : Word32) : (s.accept w).draw = s.draw := rfl

/-! ### `State.dropWrite`: a dropped write -/

@[simp] theorem State.dropWrite_r : (s.dropWrite).r = s.r := rfl
@[simp] theorem State.dropWrite_q : (s.dropWrite).q = s.q := rfl
@[simp] theorem State.dropWrite_umv : (s.dropWrite).umv = s.umv := rfl
@[simp] theorem State.dropWrite_um : (s.dropWrite).um = s.um := rfl
@[simp] theorem State.dropWrite_ucv : (s.dropWrite).ucv = s.ucv := rfl
@[simp] theorem State.dropWrite_ua : (s.dropWrite).ua = s.ua := rfl
@[simp] theorem State.dropWrite_ub : (s.dropWrite).ub = s.ub := rfl
@[simp] theorem State.dropWrite_kv : (s.dropWrite).kv = s.kv := rfl
@[simp] theorem State.dropWrite_ksec : (s.dropWrite).ksec = s.ksec := rfl
@[simp] theorem State.dropWrite_kpubx : (s.dropWrite).kpubx = s.kpubx := rfl
@[simp] theorem State.dropWrite_kpuby : (s.dropWrite).kpuby = s.kpuby := rfl
@[simp] theorem State.dropWrite_ie : (s.dropWrite).ie = s.ie := rfl
@[simp] theorem State.dropWrite_done : (s.dropWrite).done = s.done := rfl
@[simp] theorem State.dropWrite_err : (s.dropWrite).err = s.err := rfl
@[simp] theorem State.dropWrite_fatal : (s.dropWrite).fatal = s.fatal := rfl
@[simp] theorem State.dropWrite_wdrop : (s.dropWrite).wdrop = true := rfl
@[simp] theorem State.dropWrite_errcode : (s.dropWrite).errcode = s.errcode := rfl
@[simp] theorem State.dropWrite_lastcmd : (s.dropWrite).lastcmd = s.lastcmd := rfl
@[simp] theorem State.dropWrite_pending : (s.dropWrite).pending = s.pending := rfl
@[simp] theorem State.dropWrite_buf : (s.dropWrite).buf = s.buf := rfl
@[simp] theorem State.dropWrite_eval : (s.dropWrite).eval = s.eval := rfl
@[simp] theorem State.dropWrite_params : (s.dropWrite).params = s.params := rfl
@[simp] theorem State.dropWrite_schedule : (s.dropWrite).schedule = s.schedule := rfl
@[simp] theorem State.dropWrite_rdata : (s.dropWrite).rdata = s.rdata := rfl
@[simp] theorem State.dropWrite_draw : (s.dropWrite).draw = s.draw := rfl

/-! ### `State.writeStatus`: a write to STATUS -/

@[simp] theorem State.writeStatus_r (v : Word32) : (s.writeStatus v).r = s.r := rfl
@[simp] theorem State.writeStatus_q (v : Word32) : (s.writeStatus v).q = s.q := rfl
@[simp] theorem State.writeStatus_umv (v : Word32) : (s.writeStatus v).umv = s.umv := rfl
@[simp] theorem State.writeStatus_um (v : Word32) : (s.writeStatus v).um = s.um := rfl
@[simp] theorem State.writeStatus_ucv (v : Word32) : (s.writeStatus v).ucv = s.ucv := rfl
@[simp] theorem State.writeStatus_ua (v : Word32) : (s.writeStatus v).ua = s.ua := rfl
@[simp] theorem State.writeStatus_ub (v : Word32) : (s.writeStatus v).ub = s.ub := rfl
@[simp] theorem State.writeStatus_kv (v : Word32) : (s.writeStatus v).kv = s.kv := rfl
@[simp] theorem State.writeStatus_ksec (v : Word32) : (s.writeStatus v).ksec = s.ksec := rfl
@[simp] theorem State.writeStatus_kpubx (v : Word32) : (s.writeStatus v).kpubx = s.kpubx := rfl
@[simp] theorem State.writeStatus_kpuby (v : Word32) : (s.writeStatus v).kpuby = s.kpuby := rfl
@[simp] theorem State.writeStatus_ie (v : Word32) : (s.writeStatus v).ie = s.ie := rfl
@[simp] theorem State.writeStatus_done (v : Word32) : (s.writeStatus v).done = (s.done && !v.getLsbD 1) := rfl
@[simp] theorem State.writeStatus_err (v : Word32) : (s.writeStatus v).err = (s.err && !(v.getLsbD 2 && !s.fatal)) := rfl
@[simp] theorem State.writeStatus_fatal (v : Word32) : (s.writeStatus v).fatal = s.fatal := rfl
@[simp] theorem State.writeStatus_wdrop (v : Word32) : (s.writeStatus v).wdrop = (s.wdrop && !v.getLsbD 4) := rfl
@[simp] theorem State.writeStatus_errcode (v : Word32) : (s.writeStatus v).errcode = (if (v.getLsbD 2 && !s.fatal) = true then none else s.errcode) := rfl
@[simp] theorem State.writeStatus_lastcmd (v : Word32) : (s.writeStatus v).lastcmd = s.lastcmd := rfl
@[simp] theorem State.writeStatus_pending (v : Word32) : (s.writeStatus v).pending = s.pending := rfl
@[simp] theorem State.writeStatus_buf (v : Word32) : (s.writeStatus v).buf = s.buf := rfl
@[simp] theorem State.writeStatus_eval (v : Word32) : (s.writeStatus v).eval = s.eval := rfl
@[simp] theorem State.writeStatus_params (v : Word32) : (s.writeStatus v).params = s.params := rfl
@[simp] theorem State.writeStatus_schedule (v : Word32) : (s.writeStatus v).schedule = s.schedule := rfl
@[simp] theorem State.writeStatus_rdata (v : Word32) : (s.writeStatus v).rdata = s.rdata := rfl
@[simp] theorem State.writeStatus_draw (v : Word32) : (s.writeStatus v).draw = s.draw := rfl

/-! ### `State.softReset`: the soft reset -/

@[simp] theorem State.softReset_r : (s.softReset).r = State.reset.r := rfl
@[simp] theorem State.softReset_q : (s.softReset).q = State.reset.q := rfl
@[simp] theorem State.softReset_umv : (s.softReset).umv = State.reset.umv := rfl
@[simp] theorem State.softReset_um : (s.softReset).um = State.reset.um := rfl
@[simp] theorem State.softReset_ucv : (s.softReset).ucv = State.reset.ucv := rfl
@[simp] theorem State.softReset_ua : (s.softReset).ua = State.reset.ua := rfl
@[simp] theorem State.softReset_ub : (s.softReset).ub = State.reset.ub := rfl
@[simp] theorem State.softReset_kv : (s.softReset).kv = State.reset.kv := rfl
@[simp] theorem State.softReset_ksec : (s.softReset).ksec = State.reset.ksec := rfl
@[simp] theorem State.softReset_kpubx : (s.softReset).kpubx = State.reset.kpubx := rfl
@[simp] theorem State.softReset_kpuby : (s.softReset).kpuby = State.reset.kpuby := rfl
@[simp] theorem State.softReset_ie : (s.softReset).ie = State.reset.ie := rfl
@[simp] theorem State.softReset_done : (s.softReset).done = State.reset.done := rfl
@[simp] theorem State.softReset_err : (s.softReset).err = State.reset.err := rfl
@[simp] theorem State.softReset_fatal : (s.softReset).fatal = State.reset.fatal := rfl
@[simp] theorem State.softReset_wdrop : (s.softReset).wdrop = State.reset.wdrop := rfl
@[simp] theorem State.softReset_errcode : (s.softReset).errcode = State.reset.errcode := rfl
@[simp] theorem State.softReset_lastcmd : (s.softReset).lastcmd = State.reset.lastcmd := rfl
@[simp] theorem State.softReset_pending : (s.softReset).pending = State.reset.pending := rfl
@[simp] theorem State.softReset_buf : (s.softReset).buf = s.buf := rfl
@[simp] theorem State.softReset_eval : (s.softReset).eval = State.reset.eval := rfl
@[simp] theorem State.softReset_params : (s.softReset).params = s.params := rfl
@[simp] theorem State.softReset_schedule : (s.softReset).schedule = s.schedule := rfl
@[simp] theorem State.softReset_rdata : (s.softReset).rdata = s.rdata := rfl
@[simp] theorem State.softReset_draw : (s.softReset).draw = s.draw := rfl

/-! ### `State.powerOn`: the power-on reset -/

@[simp] theorem State.powerOn_r : (s.powerOn).r = State.reset.r := rfl
@[simp] theorem State.powerOn_q : (s.powerOn).q = State.reset.q := rfl
@[simp] theorem State.powerOn_umv : (s.powerOn).umv = State.reset.umv := rfl
@[simp] theorem State.powerOn_um : (s.powerOn).um = State.reset.um := rfl
@[simp] theorem State.powerOn_ucv : (s.powerOn).ucv = State.reset.ucv := rfl
@[simp] theorem State.powerOn_ua : (s.powerOn).ua = State.reset.ua := rfl
@[simp] theorem State.powerOn_ub : (s.powerOn).ub = State.reset.ub := rfl
@[simp] theorem State.powerOn_kv : (s.powerOn).kv = State.reset.kv := rfl
@[simp] theorem State.powerOn_ksec : (s.powerOn).ksec = State.reset.ksec := rfl
@[simp] theorem State.powerOn_kpubx : (s.powerOn).kpubx = State.reset.kpubx := rfl
@[simp] theorem State.powerOn_kpuby : (s.powerOn).kpuby = State.reset.kpuby := rfl
@[simp] theorem State.powerOn_ie : (s.powerOn).ie = State.reset.ie := rfl
@[simp] theorem State.powerOn_done : (s.powerOn).done = State.reset.done := rfl
@[simp] theorem State.powerOn_err : (s.powerOn).err = State.reset.err := rfl
@[simp] theorem State.powerOn_fatal : (s.powerOn).fatal = State.reset.fatal := rfl
@[simp] theorem State.powerOn_wdrop : (s.powerOn).wdrop = State.reset.wdrop := rfl
@[simp] theorem State.powerOn_errcode : (s.powerOn).errcode = State.reset.errcode := rfl
@[simp] theorem State.powerOn_lastcmd : (s.powerOn).lastcmd = State.reset.lastcmd := rfl
@[simp] theorem State.powerOn_pending : (s.powerOn).pending = State.reset.pending := rfl
@[simp] theorem State.powerOn_buf : (s.powerOn).buf = State.reset.buf := rfl
@[simp] theorem State.powerOn_eval : (s.powerOn).eval = State.reset.eval := rfl
@[simp] theorem State.powerOn_params : (s.powerOn).params = s.params := rfl
@[simp] theorem State.powerOn_schedule : (s.powerOn).schedule = s.schedule := rfl
@[simp] theorem State.powerOn_rdata : (s.powerOn).rdata = s.rdata := rfl
@[simp] theorem State.powerOn_draw : (s.powerOn).draw = s.draw + 1 := rfl

/-! ### `State.grantEngine`: the grant to the engine -/

@[simp] theorem State.grantEngine_r : (s.grantEngine).r = s.r := rfl
@[simp] theorem State.grantEngine_q : (s.grantEngine).q = s.q := rfl
@[simp] theorem State.grantEngine_umv : (s.grantEngine).umv = s.umv := rfl
@[simp] theorem State.grantEngine_um : (s.grantEngine).um = s.um := rfl
@[simp] theorem State.grantEngine_ucv : (s.grantEngine).ucv = s.ucv := rfl
@[simp] theorem State.grantEngine_ua : (s.grantEngine).ua = s.ua := rfl
@[simp] theorem State.grantEngine_ub : (s.grantEngine).ub = s.ub := rfl
@[simp] theorem State.grantEngine_kv : (s.grantEngine).kv = s.kv := rfl
@[simp] theorem State.grantEngine_ksec : (s.grantEngine).ksec = s.ksec := rfl
@[simp] theorem State.grantEngine_kpubx : (s.grantEngine).kpubx = s.kpubx := rfl
@[simp] theorem State.grantEngine_kpuby : (s.grantEngine).kpuby = s.kpuby := rfl
@[simp] theorem State.grantEngine_ie : (s.grantEngine).ie = s.ie := rfl
@[simp] theorem State.grantEngine_done : (s.grantEngine).done = s.done := rfl
@[simp] theorem State.grantEngine_err : (s.grantEngine).err = s.err := rfl
@[simp] theorem State.grantEngine_fatal : (s.grantEngine).fatal = s.fatal := rfl
@[simp] theorem State.grantEngine_wdrop : (s.grantEngine).wdrop = s.wdrop := rfl
@[simp] theorem State.grantEngine_errcode : (s.grantEngine).errcode = s.errcode := rfl
@[simp] theorem State.grantEngine_lastcmd : (s.grantEngine).lastcmd = s.lastcmd := rfl
@[simp] theorem State.grantEngine_pending : (s.grantEngine).pending = s.pending := rfl
@[simp] theorem State.grantEngine_buf : (s.grantEngine).buf = s.buf := rfl
@[simp] theorem State.grantEngine_eval : (s.grantEngine).eval = s.eval := rfl
@[simp] theorem State.grantEngine_params : (s.grantEngine).params = s.params := rfl
@[simp] theorem State.grantEngine_schedule : (s.grantEngine).schedule = (if s.schedule = [] then [] else .engine :: s.schedule) := rfl
@[simp] theorem State.grantEngine_rdata : (s.grantEngine).rdata = s.rdata := rfl
@[simp] theorem State.grantEngine_draw : (s.grantEngine).draw = s.draw := rfl

/-! ### `State.hostRead`: a host read -/

@[simp] theorem State.hostRead_r (o : WordOff) : (s.hostRead o).r = s.r := rfl
@[simp] theorem State.hostRead_q (o : WordOff) : (s.hostRead o).q = s.q := rfl
@[simp] theorem State.hostRead_umv (o : WordOff) : (s.hostRead o).umv = s.umv := rfl
@[simp] theorem State.hostRead_um (o : WordOff) : (s.hostRead o).um = s.um := rfl
@[simp] theorem State.hostRead_ucv (o : WordOff) : (s.hostRead o).ucv = s.ucv := rfl
@[simp] theorem State.hostRead_ua (o : WordOff) : (s.hostRead o).ua = s.ua := rfl
@[simp] theorem State.hostRead_ub (o : WordOff) : (s.hostRead o).ub = s.ub := rfl
@[simp] theorem State.hostRead_kv (o : WordOff) : (s.hostRead o).kv = s.kv := rfl
@[simp] theorem State.hostRead_ksec (o : WordOff) : (s.hostRead o).ksec = s.ksec := rfl
@[simp] theorem State.hostRead_kpubx (o : WordOff) : (s.hostRead o).kpubx = s.kpubx := rfl
@[simp] theorem State.hostRead_kpuby (o : WordOff) : (s.hostRead o).kpuby = s.kpuby := rfl
@[simp] theorem State.hostRead_ie (o : WordOff) : (s.hostRead o).ie = s.ie := rfl
@[simp] theorem State.hostRead_done (o : WordOff) : (s.hostRead o).done = s.done := rfl
@[simp] theorem State.hostRead_err (o : WordOff) : (s.hostRead o).err = s.err := rfl
@[simp] theorem State.hostRead_fatal (o : WordOff) : (s.hostRead o).fatal = s.fatal := rfl
@[simp] theorem State.hostRead_wdrop (o : WordOff) : (s.hostRead o).wdrop = s.wdrop := rfl
@[simp] theorem State.hostRead_errcode (o : WordOff) : (s.hostRead o).errcode = s.errcode := rfl
@[simp] theorem State.hostRead_lastcmd (o : WordOff) : (s.hostRead o).lastcmd = s.lastcmd := rfl
@[simp] theorem State.hostRead_pending (o : WordOff) : (s.hostRead o).pending = s.pending := rfl
@[simp] theorem State.hostRead_buf (o : WordOff) : (s.hostRead o).buf = s.buf := rfl
@[simp] theorem State.hostRead_eval (o : WordOff) : (s.hostRead o).eval = s.eval := rfl
@[simp] theorem State.hostRead_params (o : WordOff) : (s.hostRead o).params = s.params := rfl
@[simp] theorem State.hostRead_schedule (o : WordOff) : (s.hostRead o).schedule = s.schedule := rfl
@[simp] theorem State.hostRead_rdata (o : WordOff) : (s.hostRead o).rdata = s.portRead (placeOf o) := rfl
@[simp] theorem State.hostRead_draw (o : WordOff) : (s.hostRead o).draw = s.draw := rfl

/-! ### `State.memWrite`: the bytes of a command's result in BUF -/

@[simp] theorem State.memWrite_r (a : Nat) (bs : Bytes) : (s.memWrite a bs).r = s.r := by
  induction bs generalizing s a with
  | nil => rfl
  | cons b bs ih => simp [State.memWrite, ih]

@[simp] theorem State.memWrite_q (a : Nat) (bs : Bytes) : (s.memWrite a bs).q = s.q := by
  induction bs generalizing s a with
  | nil => rfl
  | cons b bs ih => simp [State.memWrite, ih]

@[simp] theorem State.memWrite_umv (a : Nat) (bs : Bytes) : (s.memWrite a bs).umv = s.umv := by
  induction bs generalizing s a with
  | nil => rfl
  | cons b bs ih => simp [State.memWrite, ih]

@[simp] theorem State.memWrite_um (a : Nat) (bs : Bytes) : (s.memWrite a bs).um = s.um := by
  induction bs generalizing s a with
  | nil => rfl
  | cons b bs ih => simp [State.memWrite, ih]

@[simp] theorem State.memWrite_ucv (a : Nat) (bs : Bytes) : (s.memWrite a bs).ucv = s.ucv := by
  induction bs generalizing s a with
  | nil => rfl
  | cons b bs ih => simp [State.memWrite, ih]

@[simp] theorem State.memWrite_ua (a : Nat) (bs : Bytes) : (s.memWrite a bs).ua = s.ua := by
  induction bs generalizing s a with
  | nil => rfl
  | cons b bs ih => simp [State.memWrite, ih]

@[simp] theorem State.memWrite_ub (a : Nat) (bs : Bytes) : (s.memWrite a bs).ub = s.ub := by
  induction bs generalizing s a with
  | nil => rfl
  | cons b bs ih => simp [State.memWrite, ih]

@[simp] theorem State.memWrite_kv (a : Nat) (bs : Bytes) : (s.memWrite a bs).kv = s.kv := by
  induction bs generalizing s a with
  | nil => rfl
  | cons b bs ih => simp [State.memWrite, ih]

@[simp] theorem State.memWrite_ksec (a : Nat) (bs : Bytes) : (s.memWrite a bs).ksec = s.ksec := by
  induction bs generalizing s a with
  | nil => rfl
  | cons b bs ih => simp [State.memWrite, ih]

@[simp] theorem State.memWrite_kpubx (a : Nat) (bs : Bytes) : (s.memWrite a bs).kpubx = s.kpubx := by
  induction bs generalizing s a with
  | nil => rfl
  | cons b bs ih => simp [State.memWrite, ih]

@[simp] theorem State.memWrite_kpuby (a : Nat) (bs : Bytes) : (s.memWrite a bs).kpuby = s.kpuby := by
  induction bs generalizing s a with
  | nil => rfl
  | cons b bs ih => simp [State.memWrite, ih]

@[simp] theorem State.memWrite_ie (a : Nat) (bs : Bytes) : (s.memWrite a bs).ie = s.ie := by
  induction bs generalizing s a with
  | nil => rfl
  | cons b bs ih => simp [State.memWrite, ih]

@[simp] theorem State.memWrite_done (a : Nat) (bs : Bytes) : (s.memWrite a bs).done = s.done := by
  induction bs generalizing s a with
  | nil => rfl
  | cons b bs ih => simp [State.memWrite, ih]

@[simp] theorem State.memWrite_err (a : Nat) (bs : Bytes) : (s.memWrite a bs).err = s.err := by
  induction bs generalizing s a with
  | nil => rfl
  | cons b bs ih => simp [State.memWrite, ih]

@[simp] theorem State.memWrite_fatal (a : Nat) (bs : Bytes) : (s.memWrite a bs).fatal = s.fatal := by
  induction bs generalizing s a with
  | nil => rfl
  | cons b bs ih => simp [State.memWrite, ih]

@[simp] theorem State.memWrite_wdrop (a : Nat) (bs : Bytes) : (s.memWrite a bs).wdrop = s.wdrop := by
  induction bs generalizing s a with
  | nil => rfl
  | cons b bs ih => simp [State.memWrite, ih]

@[simp] theorem State.memWrite_errcode (a : Nat) (bs : Bytes) : (s.memWrite a bs).errcode = s.errcode := by
  induction bs generalizing s a with
  | nil => rfl
  | cons b bs ih => simp [State.memWrite, ih]

@[simp] theorem State.memWrite_lastcmd (a : Nat) (bs : Bytes) : (s.memWrite a bs).lastcmd = s.lastcmd := by
  induction bs generalizing s a with
  | nil => rfl
  | cons b bs ih => simp [State.memWrite, ih]

@[simp] theorem State.memWrite_pending (a : Nat) (bs : Bytes) : (s.memWrite a bs).pending = s.pending := by
  induction bs generalizing s a with
  | nil => rfl
  | cons b bs ih => simp [State.memWrite, ih]

@[simp] theorem State.memWrite_eval (a : Nat) (bs : Bytes) : (s.memWrite a bs).eval = s.eval := by
  induction bs generalizing s a with
  | nil => rfl
  | cons b bs ih => simp [State.memWrite, ih]

@[simp] theorem State.memWrite_params (a : Nat) (bs : Bytes) : (s.memWrite a bs).params = s.params := by
  induction bs generalizing s a with
  | nil => rfl
  | cons b bs ih => simp [State.memWrite, ih]

@[simp] theorem State.memWrite_schedule (a : Nat) (bs : Bytes) : (s.memWrite a bs).schedule = s.schedule := by
  induction bs generalizing s a with
  | nil => rfl
  | cons b bs ih => simp [State.memWrite, ih]

@[simp] theorem State.memWrite_rdata (a : Nat) (bs : Bytes) : (s.memWrite a bs).rdata = s.rdata := by
  induction bs generalizing s a with
  | nil => rfl
  | cons b bs ih => simp [State.memWrite, ih]

@[simp] theorem State.memWrite_draw (a : Nat) (bs : Bytes) : (s.memWrite a bs).draw = s.draw := by
  induction bs generalizing s a with
  | nil => rfl
  | cons b bs ih => simp [State.memWrite, ih]


/-! ### `State.putBytes`: the writes of SECENC and DERENC -/

@[simp] theorem State.putBytes_r (i : RegIdx) (a : Nat) (bs : Bytes) : (s.putBytes i a bs).r = s.r.set i.val { tag := .int, val := toW bs.length } i.isLt := by
  simp [State.putBytes]
@[simp] theorem State.putBytes_q (i : RegIdx) (a : Nat) (bs : Bytes) : (s.putBytes i a bs).q = s.q := by
  simp [State.putBytes]
@[simp] theorem State.putBytes_umv (i : RegIdx) (a : Nat) (bs : Bytes) : (s.putBytes i a bs).umv = s.umv := by
  simp [State.putBytes]
@[simp] theorem State.putBytes_um (i : RegIdx) (a : Nat) (bs : Bytes) : (s.putBytes i a bs).um = s.um := by
  simp [State.putBytes]
@[simp] theorem State.putBytes_ucv (i : RegIdx) (a : Nat) (bs : Bytes) : (s.putBytes i a bs).ucv = s.ucv := by
  simp [State.putBytes]
@[simp] theorem State.putBytes_ua (i : RegIdx) (a : Nat) (bs : Bytes) : (s.putBytes i a bs).ua = s.ua := by
  simp [State.putBytes]
@[simp] theorem State.putBytes_ub (i : RegIdx) (a : Nat) (bs : Bytes) : (s.putBytes i a bs).ub = s.ub := by
  simp [State.putBytes]
@[simp] theorem State.putBytes_kv (i : RegIdx) (a : Nat) (bs : Bytes) : (s.putBytes i a bs).kv = s.kv := by
  simp [State.putBytes]
@[simp] theorem State.putBytes_ksec (i : RegIdx) (a : Nat) (bs : Bytes) : (s.putBytes i a bs).ksec = s.ksec := by
  simp [State.putBytes]
@[simp] theorem State.putBytes_kpubx (i : RegIdx) (a : Nat) (bs : Bytes) : (s.putBytes i a bs).kpubx = s.kpubx := by
  simp [State.putBytes]
@[simp] theorem State.putBytes_kpuby (i : RegIdx) (a : Nat) (bs : Bytes) : (s.putBytes i a bs).kpuby = s.kpuby := by
  simp [State.putBytes]
@[simp] theorem State.putBytes_ie (i : RegIdx) (a : Nat) (bs : Bytes) : (s.putBytes i a bs).ie = s.ie := by
  simp [State.putBytes]
@[simp] theorem State.putBytes_done (i : RegIdx) (a : Nat) (bs : Bytes) : (s.putBytes i a bs).done = s.done := by
  simp [State.putBytes]
@[simp] theorem State.putBytes_err (i : RegIdx) (a : Nat) (bs : Bytes) : (s.putBytes i a bs).err = s.err := by
  simp [State.putBytes]
@[simp] theorem State.putBytes_fatal (i : RegIdx) (a : Nat) (bs : Bytes) : (s.putBytes i a bs).fatal = s.fatal := by
  simp [State.putBytes]
@[simp] theorem State.putBytes_wdrop (i : RegIdx) (a : Nat) (bs : Bytes) : (s.putBytes i a bs).wdrop = s.wdrop := by
  simp [State.putBytes]
@[simp] theorem State.putBytes_errcode (i : RegIdx) (a : Nat) (bs : Bytes) : (s.putBytes i a bs).errcode = s.errcode := by
  simp [State.putBytes]
@[simp] theorem State.putBytes_lastcmd (i : RegIdx) (a : Nat) (bs : Bytes) : (s.putBytes i a bs).lastcmd = s.lastcmd := by
  simp [State.putBytes]
@[simp] theorem State.putBytes_pending (i : RegIdx) (a : Nat) (bs : Bytes) : (s.putBytes i a bs).pending = s.pending := by
  simp [State.putBytes]
@[simp] theorem State.putBytes_buf (i : RegIdx) (a : Nat) (bs : Bytes) : (s.putBytes i a bs).buf = (s.memWrite a bs).buf := by
  simp [State.putBytes]
@[simp] theorem State.putBytes_eval (i : RegIdx) (a : Nat) (bs : Bytes) : (s.putBytes i a bs).eval = s.eval := by
  simp [State.putBytes]
@[simp] theorem State.putBytes_params (i : RegIdx) (a : Nat) (bs : Bytes) : (s.putBytes i a bs).params = s.params := by
  simp [State.putBytes]
@[simp] theorem State.putBytes_schedule (i : RegIdx) (a : Nat) (bs : Bytes) : (s.putBytes i a bs).schedule = s.schedule := by
  simp [State.putBytes]
@[simp] theorem State.putBytes_rdata (i : RegIdx) (a : Nat) (bs : Bytes) : (s.putBytes i a bs).rdata = s.rdata := by
  simp [State.putBytes]
@[simp] theorem State.putBytes_draw (i : RegIdx) (a : Nat) (bs : Bytes) : (s.putBytes i a bs).draw = s.draw := by
  simp [State.putBytes]

end Sys2Proof.Machine
end

