-- ==== Sys2Proof/Laws/Regs.lean ====
section
/-!
SUPPORT. Register reads after register writes (10_state.md R30, R40; 00_scope.md R16).
-/

namespace Sys2Proof.Machine

theorem State.getR_setR (s : State) (i j : RegIdx) (t : Tag) (v : W256) :
    (s.setR i t v).getR j = if i = j then { tag := t, val := v } else s.getR j := by
  simp only [State.getR, State.setR_r, Fin.getElem_fin, Vector.getElem_set, Fin.ext_iff]

@[simp] theorem State.getR_setR_self (s : State) (i : RegIdx) (t : Tag) (v : W256) :
    (s.setR i t v).getR i = { tag := t, val := v } := by
  simp [State.getR_setR]

theorem State.getR_setR_of_ne (s : State) {i j : RegIdx} (t : Tag) (v : W256) (h : i ≠ j) :
    (s.setR i t v).getR j = s.getR j := by
  simp [State.getR_setR, h]

theorem State.getR_setInt (s : State) (i j : RegIdx) (n : Nat) :
    (s.setInt i n).getR j = if i = j then { tag := .int, val := toW n } else s.getR j :=
  s.getR_setR i j .int (toW n)

theorem State.getQ_setQ (s : State) (i j : RegIdx) (x : QReg) :
    (s.setQ i x).getQ j = if i = j then x else s.getQ j := by
  simp only [State.getQ, State.setQ_q, Fin.getElem_fin, Vector.getElem_set, Fin.ext_iff]

@[simp] theorem State.getQ_setQ_self (s : State) (i : RegIdx) (x : QReg) : (s.setQ i x).getQ i = x := by
  simp [State.getQ_setQ]

theorem State.getQ_setQ_of_ne (s : State) {i j : RegIdx} (x : QReg) (h : i ≠ j) :
    (s.setQ i x).getQ j = s.getQ j := by
  simp [State.getQ_setQ, h]

/-- A register's contents depend on the R file alone. -/
theorem State.getR_congr {s t : State} (h : t.r = s.r) (i : RegIdx) : t.getR i = s.getR i := by
  simp only [State.getR, h]

/-- A point register's contents depend on the Q file alone. -/
theorem State.getQ_congr {s t : State} (h : t.q = s.q) (i : RegIdx) : t.getQ i = s.getQ i := by
  simp only [State.getQ, h]

/-- The loops of R202 and R251 apply their body to every register. -/
theorem getElem_mapFile {α : Type} (f : α → α) (v : Vector α 16) (i : RegIdx) : (mapFile f v)[i] = f v[i] := by
  simp [mapFile]

theorem State.getR_clearUserElements (s : State) (i : RegIdx) :
    s.clearUserElements.getR i = clearIfFU (s.getR i) :=
  getElem_mapFile clearIfFU s.r i

theorem State.getQ_clearUserPoints (s : State) (i : RegIdx) :
    s.clearUserPoints.getQ i = clearIfUser (s.getQ i) :=
  getElem_mapFile clearIfUser s.q i

@[simp] theorem State.getR_setUserModulus (s : State) (n : Nat) (i : RegIdx) :
    (s.setUserModulus n).getR i = clearIfFU (s.getR i) :=
  getElem_mapFile clearIfFU s.r i

@[simp] theorem State.getQ_setUserModulus (s : State) (n : Nat) (i : RegIdx) :
    (s.setUserModulus n).getQ i = clearIfUser (s.getQ i) :=
  getElem_mapFile clearIfUser s.q i

@[simp] theorem State.getQ_setUserCurve (s : State) (a b : Nat) (i : RegIdx) :
    (s.setUserCurve a b).getQ i = clearIfUser (s.getQ i) :=
  getElem_mapFile clearIfUser s.q i

theorem State.getQ_loadKey (s : State) (i j : RegIdx) (e : Nat) (p : Pt) :
    (s.loadKey i e p).getQ j = if i = j then pointReg .secp p else s.getQ j :=
  State.getQ_setQ { s with ksec := toW e, kpubx := toW p.xOr0, kpuby := toW p.yOr0, kv := true } i j (pointReg .secp p)

@[simp] theorem State.getR_setQ (s : State) (i j : RegIdx) (x : QReg) : (s.setQ i x).getR j = s.getR j := rfl
@[simp] theorem State.getQ_setR (s : State) (i j : RegIdx) (t : Tag) (v : W256) :
    (s.setR i t v).getQ j = s.getQ j := rfl
@[simp] theorem State.getQ_setInt (s : State) (i j : RegIdx) (n : Nat) : (s.setInt i n).getQ j = s.getQ j := rfl
@[simp] theorem State.getR_finish (s : State) (j : RegIdx) : s.finish.getR j = s.getR j := rfl
@[simp] theorem State.getQ_finish (s : State) (j : RegIdx) : s.finish.getQ j = s.getQ j := rfl
@[simp] theorem State.getR_fail (s : State) (e : Err) (j : RegIdx) : (s.fail e).getR j = s.getR j := rfl
@[simp] theorem State.getQ_fail (s : State) (e : Err) (j : RegIdx) : (s.fail e).getQ j = s.getQ j := rfl
@[simp] theorem State.getR_loadKey (s : State) (i j : RegIdx) (e : Nat) (p : Pt) :
    (s.loadKey i e p).getR j = s.getR j := rfl
@[simp] theorem State.getR_setUserCurve (s : State) (a b : Nat) (j : RegIdx) :
    (s.setUserCurve a b).getR j = s.getR j := rfl
@[simp] theorem State.getR_memWrite (s : State) (a : Nat) (bs : Bytes) (j : RegIdx) :
    (s.memWrite a bs).getR j = s.getR j := State.getR_congr (s.memWrite_r a bs) j
@[simp] theorem State.getQ_memWrite (s : State) (a : Nat) (bs : Bytes) (j : RegIdx) :
    (s.memWrite a bs).getQ j = s.getQ j := State.getQ_congr (s.memWrite_q a bs) j
@[simp] theorem State.getQ_putBytes (s : State) (i : RegIdx) (a : Nat) (bs : Bytes) (j : RegIdx) :
    (s.putBytes i a bs).getQ j = s.getQ j := State.getQ_congr (s.putBytes_q i a bs) j

theorem State.getR_putBytes (s : State) (i : RegIdx) (a : Nat) (bs : Bytes) (j : RegIdx) :
    (s.putBytes i a bs).getR j = if i = j then { tag := .int, val := toW bs.length } else s.getR j := by
  simp [State.putBytes, State.getR_setInt]

end Sys2Proof.Machine
end

