-- ==== Sys2Proof/Laws/Memory.lean ====
section
/-!
SUPPORT. BUF: every operation keeps the canonical form, a read after a write gives the byte written, a write leaves every
other byte alone (20_memory.md R100, R111).
-/

namespace Sys2Proof.Machine

/-- The canonical form, as a proposition. -/
theorem Memory.wf_iff (m : Memory) :
    m.wf = true ↔ (m.Pairwise fun x y => x.1 < y.1) ∧ ∀ x ∈ m, x.1 < Config.bufSize := by
  simp [Memory.wf]

/-- The addresses after an insertion are the old ones and the new one. -/
theorem Memory.mem_insert (m : Memory) (a : Nat) (v : Byte) (x : Host.Cell) (h : x ∈ m.insert a v) :
    x.1 = a ∨ x ∈ m := by
  induction m with
  | nil => simp [Memory.insert] at h; simp [h]
  | cons y m ih =>
    obtain ⟨b, w⟩ := y
    simp only [Memory.insert] at h
    split at h
    · simp only [List.mem_cons] at h ⊢
      rcases h with rfl | h
      · exact .inl rfl
      · exact .inr h
    · split at h
      · rcases List.mem_cons.1 h with rfl | h
        · exact .inl rfl
        · exact .inr (List.mem_cons_of_mem _ h)
      · rcases List.mem_cons.1 h with rfl | h
        · exact .inr List.mem_cons_self
        · exact (ih h).imp id (List.mem_cons_of_mem _)

theorem Memory.insert_pairwise (m : Memory) (a : Nat) (v : Byte) (h : m.Pairwise fun x y => x.1 < y.1) :
    (m.insert a v).Pairwise fun x y => x.1 < y.1 := by
  induction m with
  | nil => simp [Memory.insert]
  | cons y m ih =>
    obtain ⟨b, w⟩ := y
    rw [List.pairwise_cons] at h
    simp only [Memory.insert]
    split
    case isTrue hab =>
      refine List.pairwise_cons.2 ⟨fun x hx => ?_, List.pairwise_cons.2 h⟩
      rcases List.mem_cons.1 hx with rfl | hx
      · exact hab
      · exact Nat.lt_trans hab (h.1 x hx)
    case isFalse hab =>
      split
      case isTrue e => subst e; exact List.pairwise_cons.2 h
      case isFalse e =>
        refine List.pairwise_cons.2 ⟨fun x hx => ?_, ih h.2⟩
        rcases Memory.mem_insert m a v x hx with hx | hx
        · simp only [hx]; omega
        · exact h.1 x hx

/-- Every write of one byte keeps the canonical form. -/
theorem Memory.set_wf (m : Memory) (a : Nat) (v : Byte) (h : m.wf = true) : (m.set a v).wf = true := by
  rw [Memory.wf_iff] at h ⊢
  unfold Memory.set
  split
  case isTrue ha =>
    refine ⟨Memory.insert_pairwise m a v h.1, fun x hx => ?_⟩
    rcases Memory.mem_insert m a v x hx with hx | hx
    · exact hx ▸ ha
    · exact h.2 x hx
  case isFalse => exact h

/-- Reading after one insertion. -/
theorem Memory.get?_insert (m : Memory) (a b : Nat) (v : Byte) :
    (m.insert a v).get? b = if b = a then some v else m.get? b := by
  induction m with
  | nil => simp [Memory.insert, Memory.get?]
  | cons y m ih =>
    obtain ⟨c, w⟩ := y
    simp only [Memory.insert]
    by_cases hb : b = a
    · subst hb
      split
      · simp [Memory.get?]
      · split
        · simp [Memory.get?]
        · rename_i h1 h2
          simp [Memory.get?, h2, ih]
    · split
      · simp [Memory.get?, hb]
      · split
        case isTrue e => subst e; simp [Memory.get?, hb]
        case isFalse e => simp [Memory.get?, hb, ih]

/-- Read after write: the byte written at its own address, every other byte as before. -/
theorem State.readByte_writeByte (s : State) (a b : Nat) (v : Byte) (h : a < Config.bufSize) :
    (s.writeByte a v).readByte b = if b = a then v else s.readByte b := by
  simp only [State.readByte, State.writeByte_buf, State.writeByte_draw, Memory.set, h, if_true, Memory.get?_insert]
  split <;> simp

/-- BUF and the power-on number decide every BUF byte. -/
theorem State.readByte_congr {s t : State} (hb : t.buf = s.buf) (hd : t.draw = s.draw) (a : Nat) :
    t.readByte a = s.readByte a := by
  simp only [State.readByte, hb, hd]

@[simp] theorem State.readByte_setR (s : State) (i : RegIdx) (t : Tag) (v : W256) (a : Nat) :
    (s.setR i t v).readByte a = s.readByte a := rfl
@[simp] theorem State.readByte_setInt (s : State) (i : RegIdx) (n : Nat) (a : Nat) :
    (s.setInt i n).readByte a = s.readByte a := rfl
@[simp] theorem State.readByte_finish (s : State) (a : Nat) : s.finish.readByte a = s.readByte a := rfl

/-- A write outside BUF changes nothing. -/
theorem State.writeByte_outside (s : State) (a : Nat) (v : Byte) (h : Config.bufSize ≤ a) : s.writeByte a v = s := by
  simp [State.writeByte, Memory.set, Nat.not_lt.2 h]

/-- `MemWrite` inside BUF: byte k of the string at addr + k, every other byte as before (R111). -/
theorem State.readByte_memWrite (s : State) (addr : Nat) (bs : Bytes) (b : Nat)
    (h : addr + bs.length ≤ Config.bufSize) :
    (s.memWrite addr bs).readByte b =
      if addr ≤ b ∧ b < addr + bs.length then bs.getD (b - addr) 0 else s.readByte b := by
  induction bs generalizing s addr with
  | nil => simp [State.memWrite]
  | cons x bs ih =>
    simp only [List.length_cons] at h
    have ha : addr < Config.bufSize := by omega
    simp only [State.memWrite, List.length_cons]
    rw [ih _ _ (by omega), State.readByte_writeByte s addr b x ha]
    by_cases h1 : b = addr
    · subst h1; simp
    · by_cases h2 : addr + 1 ≤ b ∧ b < addr + 1 + bs.length
      · have e : b - addr = (b - (addr + 1)) + 1 := by omega
        rw [if_pos h2, if_pos (by omega), e, List.getD_cons_succ]
      · rw [if_neg h2, if_neg h1, if_neg (by omega)]

/-- `MemWrite` keeps the canonical form. -/
theorem State.memWrite_wf (s : State) (addr : Nat) (bs : Bytes) (h : s.buf.wf = true) :
    (s.memWrite addr bs).buf.wf = true := by
  induction bs generalizing s addr with
  | nil => exact h
  | cons b bs ih => exact ih (s.writeByte addr b) (addr + 1) (Memory.set_wf s.buf addr b h)

theorem State.putBytes_wf (s : State) (i : RegIdx) (addr : Nat) (bs : Bytes) (h : s.buf.wf = true) :
    (s.putBytes i addr bs).buf.wf = true := by
  rw [State.putBytes_buf]
  exact s.memWrite_wf addr bs h

@[simp] theorem State.memRead_length (s : State) (addr n : Nat) : (s.memRead addr n).length = n := by
  induction n generalizing addr with
  | zero => rfl
  | succ n ih => simp [State.memRead, ih]

/-- `MemRead` depends on BUF alone. -/
theorem State.memRead_congr {s t : State} (hb : t.buf = s.buf) (hd : t.draw = s.draw) (addr n : Nat) :
    t.memRead addr n = s.memRead addr n := by
  induction n generalizing addr with
  | zero => rfl
  | succ n ih => simp [State.memRead, ih, State.readByte_congr hb hd]

end Sys2Proof.Machine
end

