-- ==== Sys2Proof/Laws/Operands.lean ====
section
/-!
SUPPORT. What each operand read can answer (10_state.md R34, R42; 40_field.md R201, R205; 20_memory.md R112), and the
shape of every command (60_exceptions.md R502).
-/

namespace Sys2Proof.Machine

/-! ### Pseudocode that answers -/

@[simp] theorem ok_bind {ε α β : Type} (a : α) (f : α → Except ε β) : ((Except.ok a : Except ε α) >>= f) = f a := rfl
@[simp] theorem error_bind {ε α β : Type} (e : ε) (f : α → Except ε β) :
    ((Except.error e : Except ε α) >>= f) = Except.error e := rfl

/-- Pseudocode that ends without raising did so line by line. -/
theorem bind_eq_ok {ε α β : Type} {x : Except ε α} {f : α → Except ε β} {b : β} (h : (x >>= f) = .ok b) :
    ∃ a, x = .ok a ∧ f a = .ok b := by
  cases x with
  | error e => cases h
  | ok a => exact ⟨a, rfl, h⟩

/-- Pseudocode that passed a check: the check did not raise. -/
theorem check_eq_ok {ε α : Type} {c : Prop} [Decidable c] {e : ε} {x : Except ε α} {a : α}
    (h : (if c then .error e else x) = .ok a) : ¬c ∧ x = .ok a := by
  by_cases hc : c
  · rw [if_pos hc] at h; cases h
  · rw [if_neg hc] at h; exact ⟨hc, h⟩

/-- Pseudocode that passed a test whose other branch raises. -/
theorem test_eq_ok {ε α : Type} {c : Prop} [Decidable c] {e : ε} {x : Except ε α} {a : α}
    (h : (if c then x else .error e) = .ok a) : c ∧ x = .ok a := by
  by_cases hc : c
  · rw [if_pos hc] at h; exact ⟨hc, h⟩
  · rw [if_neg hc] at h; cases h

/-! ### Commands -/

@[simp] theorem State.complete_ok (s t : State) : s.complete (.ok t) = t.finish := rfl
@[simp] theorem State.complete_error (s : State) (e : Err) : s.complete (.error e) = s.fail e := rfl

/-- A command always answers a next state (R620). -/
theorem State.command_next (s : State) (p : Except Err State) : s.command p = .next (s.complete p) := rfl

/-- All that a command can answer: the state its pseudocode wrote, completed, or the state before it with the error
reported (R502, R504). -/
theorem State.command_cases {s t : State} {p : Except Err State} (h : s.command p = .next t) :
    (∃ u, p = .ok u ∧ t = u.finish) ∨ (∃ e, p = .error e ∧ t = s.fail e) := by
  cases h
  cases p with
  | ok u => exact .inl ⟨u, rfl, rfl⟩
  | error e => exact .inr ⟨e, rfl, rfl⟩

/-! ### Operand reads -/

theorem State.rint_eq (s : State) (i : RegIdx) :
    s.rint i = if (s.getR i).tag = .empty then .error .unwritten else .ok (s.getR i).val.toNat := by
  unfold State.rint
  split <;> simp [*]

theorem State.rint_ok {s : State} {i : RegIdx} {v : Nat} (h : s.rint i = .ok v) :
    (s.getR i).tag ≠ .empty ∧ v = (s.getR i).val.toNat := by
  rw [State.rint_eq] at h
  split at h
  · cases h
  · cases h; exact ⟨‹_›, rfl⟩

/-- An integer operand is a W-bit value (R13, R34). -/
theorem State.rint_lt {s : State} {i : RegIdx} {v : Nat} (h : s.rint i = .ok v) : v < 2 ^ 256 := by
  rw [(State.rint_ok h).2]
  exact (s.getR i).val.isLt

theorem State.rfield_ok {s : State} {i : RegIdx} {v : Nat} {f : FieldSel} (h : s.rfield i = .ok (v, f)) :
    (s.getR i).tag = .field f ∧ v = (s.getR i).val.toNat := by
  unfold State.rfield at h
  split at h
  · cases h
  · cases h
  · cases h; exact ⟨‹_›, rfl⟩

theorem State.rfield_of_tag {s : State} {i : RegIdx} {f : FieldSel} (h : (s.getR i).tag = .field f) :
    s.rfield i = .ok ((s.getR i).val.toNat, f) := by
  simp [State.rfield, h]

theorem State.rint_of_tag {s : State} {i : RegIdx} (h : (s.getR i).tag ≠ .empty) :
    s.rint i = .ok (s.getR i).val.toNat := by
  simp [State.rint_eq, h]

/-- All that `readPair()` can answer without raising (R205). -/
theorem State.readPair_ok {s : State} {ra rb : RegIdx} {p : FieldPair} (h : s.readPair ra rb = .ok p) :
    ∃ tb, (s.getR ra).tag = .field p.t ∧ (s.getR rb).tag = .field tb ∧ s.fieldOf p.t = s.fieldOf tb ∧
      p.a = (s.getR ra).val.toNat ∧ p.b = (s.getR rb).val.toNat ∧ p.m = s.fieldOf p.t := by
  obtain ⟨⟨a, ta⟩, h1, h⟩ := bind_eq_ok h
  obtain ⟨⟨b, tb⟩, h2, h⟩ := bind_eq_ok h
  dsimp only at h
  split at h
  · cases h
  · cases h
    have := State.rfield_ok h1
    have := State.rfield_ok h2
    exact ⟨tb, by tauto⟩

/-- Two field elements of the same field by value are read (R205). -/
theorem State.readPair_of_tags {s : State} {ra rb : RegIdx} {ta tb : FieldSel} (ha : (s.getR ra).tag = .field ta)
    (hb : (s.getR rb).tag = .field tb) (h : s.fieldOf ta = s.fieldOf tb) :
    s.readPair ra rb = .ok { a := (s.getR ra).val.toNat, b := (s.getR rb).val.toNat, t := ta, m := s.fieldOf ta } := by
  simp [State.readPair, State.rfield_of_tag ha, State.rfield_of_tag hb, h]

theorem State.qpt_ok {s : State} {i : RegIdx} {p : Pt} {c : CurveSel} (h : s.qpt i = .ok (p, c)) :
    (s.getQ i = .inf c ∧ p = .inf) ∨ (∃ x y, s.getQ i = .coord c x y ∧ p = .aff x.toNat y.toNat) := by
  unfold State.qpt at h
  split at h
  · cases h
  · cases h; exact .inl ⟨‹_›, rfl⟩
  · cases h; exact .inr ⟨_, _, ‹_›, rfl⟩

theorem State.selectField_ok {s : State} {f g : FieldSel} (h : s.selectField f = .ok g) :
    g = f ∧ (f = .user → s.umv = true) := by
  unfold State.selectField at h
  split at h
  · cases h; simp
  · cases h; simp
  · split at h
    · cases h; simp [*]
    · cases h

theorem State.selectCurve_ok {s : State} {c d : CurveSel} (h : s.selectCurve c = .ok d) :
    d = c ∧ (c = .user → s.ucv = true) := by
  unfold State.selectCurve at h
  split at h
  · cases h; simp
  · split at h
    · cases h; simp [*]
    · cases h

theorem rangeCheck_ok {addr n : Nat} {u : Unit} (h : rangeCheck addr n = .ok u) : addr + n ≤ Config.bufSize := by
  unfold rangeCheck at h
  split at h
  · assumption
  · cases h

theorem rangeCheck_of_le {addr n : Nat} (h : addr + n ≤ Config.bufSize) : rangeCheck addr n = .ok () := if_pos h

theorem rangeCheck_of_gt {addr n : Nat} (h : Config.bufSize < addr + n) : rangeCheck addr n = .error .bufRange :=
  if_neg (Nat.not_le.2 h)

/-- A value below 2^256 is stored whole (R13). -/
theorem toW_toNat {n : Nat} (h : n < 2 ^ 256) : (toW n).toNat = n := by
  rw [BitVec.toNat_ofNat]
  exact Nat.mod_eq_of_lt h

/-- A W-bit value is stored as itself. -/
@[simp] theorem toW_of_toNat (v : W256) : toW v.toNat = v := by
  simp [toW]

end Sys2Proof.Machine
end

