-- ==== Sys2Proof/Laws/Points.lean ====
section
/-!
SUPPORT. The point operations (41_curve.md R261-R266): results have coordinates below the modulus, adding a point to itself
never raises, and the scalar loop does not depend on its fuel.
-/

namespace Sys2Proof.Machine

theorem chordPoint_below (s x1 y1 : Nat) {x3 m : Nat} (hm : 0 < m) (hx : x3 < m) :
    (chordPoint s x1 y1 x3 m).below m :=
  ⟨hx, fsub_lt _ _ hm⟩

theorem doublePoint_below {x1 y1 : Nat} {c : Curve} {r : Pt} (hm : 0 < c.m) (h : doublePoint x1 y1 c = .ok r) :
    r.below c.m := by
  obtain ⟨v, -, h⟩ := bind_eq_ok h
  cases h
  exact chordPoint_below _ _ _ hm (fsub_lt _ _ hm)

theorem addDistinct_below {x1 y1 x2 y2 : Nat} {c : Curve} {r : Pt} (hm : 0 < c.m)
    (h : addDistinct x1 y1 x2 y2 c = .ok r) : r.below c.m := by
  obtain ⟨v, -, h⟩ := bind_eq_ok h
  cases h
  exact chordPoint_below _ _ _ hm (fsub_lt _ _ hm)

/-- Sums of points below the modulus are below it. -/
theorem padd_below {p1 p2 r : Pt} {c : Curve} (hm : 0 < c.m) (h1 : p1.below c.m) (h2 : p2.below c.m)
    (h : padd p1 p2 c = .ok r) : r.below c.m := by
  unfold padd at h
  split at h
  · cases h; exact h2
  · cases h; exact h1
  · split at h
    · cases h; trivial
    · split at h
      · split at h
        · cases h; trivial
        · exact doublePoint_below hm h
      · split at h
        · exact addDistinct_below hm h
        · cases h

theorem pmulLoop_below {fuel k : Nat} {result current r : Pt} {c : Curve} (hm : 0 < c.m) (h1 : result.below c.m)
    (h2 : current.below c.m) (h : pmulLoop c fuel result current k = .ok r) : r.below c.m := by
  induction fuel generalizing result current k with
  | zero => cases h; exact h1
  | succ fuel ih =>
    unfold pmulLoop at h
    split at h
    · cases h; exact h1
    · obtain ⟨r1, hr1, h⟩ := bind_eq_ok h
      obtain ⟨c1, hc1, h⟩ := bind_eq_ok h
      refine ih ?_ (padd_below hm h2 h2 hc1) h
      unfold addBit at hr1
      split at hr1
      · exact padd_below hm h1 h2 hr1
      · cases hr1; exact h1

theorem pmul_below {k : Nat} {p r : Pt} {c : Curve} (hm : 0 < c.m) (hp : p.below c.m) (h : pmul k p c = .ok r) :
    r.below c.m :=
  pmulLoop_below hm (by trivial : Pt.below c.m .inf) hp h

/-- With enough fuel the loop of R266 does not depend on it. -/
theorem pmulLoop_fuel {n m k : Nat} (result current : Pt) (c : Curve) (hn : k < 2 ^ n) (hm : k < 2 ^ m) :
    pmulLoop c n result current k = pmulLoop c m result current k := by
  induction n generalizing m k result current with
  | zero =>
    obtain rfl : k = 0 := by simpa using hn
    cases m <;> simp [pmulLoop]
  | succ n ih =>
    cases m with
    | zero =>
      obtain rfl : k = 0 := by simpa using hm
      simp [pmulLoop]
    | succ m =>
      rw [Nat.pow_succ] at hn hm
      unfold pmulLoop
      split
      · rfl
      · congr; funext r; congr; funext d
        exact ih r d (by omega) (by omega)

/-- `pmul` is the loop of R266 with any fuel that suffices. -/
theorem pmul_eq_loop {n k : Nat} (p : Pt) (c : Curve) (hn : k < 2 ^ n) : pmul k p c = pmulLoop c n .inf p k :=
  pmulLoop_fuel _ _ _ (lt_two_pow_log2 k) hn

/-- Adding a point to itself never raises: case 2 has caught the zero denominator (R263). -/
theorem padd_self (p : Pt) (c : Curve) : ∃ r, padd p p c = .ok r := by
  cases p with
  | inf => exact ⟨_, rfl⟩
  | aff x y =>
    by_cases h0 : fadd y y c.m = 0
    · exact ⟨.inf, by simp [padd, h0]⟩
    · by_cases hy : y = 0
      · exact ⟨.inf, by simp [padd, hy]⟩
      · have hd : fmul 2 y c.m ≠ 0 := by rwa [fmul, Nat.two_mul]
        obtain ⟨v, hv⟩ := fdiv_of_ne (a := fadd (fmul 3 (fmul x x c.m) c.m) c.a c.m) (m := c.m) hd
        exact ⟨_, by simp [padd, h0, hy, doublePoint, hv]; rfl⟩

theorem genG_below : genG.below Config.P := by
  unfold genG Pt.below
  decide

end Sys2Proof.Machine
end

