-- ==== Sys2Proof/Laws/Exec.lean ====
section
/-!
SUPPORT. One inversion lemma per command: all that it can answer, its success case written out, or the state before it with
an error reported (60_exceptions.md R502, R504). Frames and invariants follow from these by cases.
-/

namespace Sys2Proof.Machine

variable {s t : State} {rd ra rb rc re rz : RegIdx}

theorem execNop_cases (h : execNop s = .next t) : t = s.finish := by
  cases h; rfl

theorem execRmov_cases (h : execRmov rd ra s = .next t) :
    ((s.getR ra).tag ≠ .empty ∧ t = (s.setR rd (s.getR ra).tag (s.getR ra).val).finish) ∨ ∃ e, t = s.fail e := by
  obtain ⟨u, hu, rfl⟩ | ⟨e, -, rfl⟩ := State.command_cases h
  · obtain ⟨hc, hu⟩ := check_eq_ok hu
    obtain rfl := Except.ok.inj hu
    exact .inl ⟨hc, rfl⟩
  · exact .inr ⟨e, rfl⟩

theorem execQmov_cases (h : execQmov rd ra s = .next t) :
    (s.getQ ra ≠ .empty ∧ t = (s.setQ rd (s.getQ ra)).finish) ∨ ∃ e, t = s.fail e := by
  obtain ⟨u, hu, rfl⟩ | ⟨e, -, rfl⟩ := State.command_cases h
  · obtain ⟨hc, hu⟩ := check_eq_ok hu
    obtain rfl := Except.ok.inj hu
    exact .inl ⟨hc, rfl⟩
  · exact .inr ⟨e, rfl⟩

theorem execRclr_cases (h : execRclr rd s = .next t) : t = (s.setR rd .empty 0).finish := by
  cases h; rfl

theorem execQclr_cases (h : execQclr rd s = .next t) : t = (s.setQ rd .empty).finish := by
  cases h; rfl

theorem execMset_cases (h : execMset ra s = .next t) :
    (∃ v, s.rint ra = .ok v ∧ 1 < v ∧ t = (s.setUserModulus v).finish) ∨ ∃ e, t = s.fail e := by
  obtain ⟨u, hu, rfl⟩ | ⟨e, -, rfl⟩ := State.command_cases h
  · obtain ⟨v, hv, hu⟩ := bind_eq_ok hu
    obtain ⟨hc, hu⟩ := check_eq_ok hu
    obtain rfl := Except.ok.inj hu
    exact .inl ⟨v, hv, by omega, rfl⟩
  · exact .inr ⟨e, rfl⟩

theorem execFnew_cases {mode : FieldSel} (h : execFnew rd ra mode s = .next t) :
    (∃ v, s.rint ra = .ok v ∧ s.selectField mode = .ok mode ∧ v < s.fieldOf mode ∧
      t = (s.setR rd (.field mode) (toW v)).finish) ∨ ∃ e, t = s.fail e := by
  obtain ⟨u, hu, rfl⟩ | ⟨e, -, rfl⟩ := State.command_cases h
  · obtain ⟨v, hv, hu⟩ := bind_eq_ok hu
    obtain ⟨f, hf, hg⟩ := bind_eq_ok hu
    obtain rfl := (State.selectField_ok hf).1
    obtain ⟨hc, hg⟩ := check_eq_ok hg
    obtain rfl := Except.ok.inj hg
    exact .inl ⟨v, hv, hf, by omega, rfl⟩
  · exact .inr ⟨e, rfl⟩

theorem execFred_cases {mode : FieldSel} (h : execFred rd ra mode s = .next t) :
    (∃ v, s.rint ra = .ok v ∧ s.selectField mode = .ok mode ∧
      t = (s.setR rd (.field mode) (toW (v % s.fieldOf mode))).finish) ∨ ∃ e, t = s.fail e := by
  obtain ⟨u, hu, rfl⟩ | ⟨e, -, rfl⟩ := State.command_cases h
  · obtain ⟨v, hv, hu⟩ := bind_eq_ok hu
    obtain ⟨f, hf, hg⟩ := bind_eq_ok hu
    obtain rfl := (State.selectField_ok hf).1
    obtain rfl := Except.ok.inj hg
    exact .inl ⟨v, hv, hf, rfl⟩
  · exact .inr ⟨e, rfl⟩

theorem execFadd_cases (h : execFadd rd ra rb s = .next t) :
    (∃ p, s.readPair ra rb = .ok p ∧ t = (s.setR rd (.field p.t) (toW (fadd p.a p.b p.m))).finish) ∨
      ∃ e, t = s.fail e := by
  obtain ⟨u, hu, rfl⟩ | ⟨e, -, rfl⟩ := State.command_cases h
  · obtain ⟨p, hp, hu⟩ := bind_eq_ok hu
    obtain rfl := Except.ok.inj hu
    exact .inl ⟨p, hp, rfl⟩
  · exact .inr ⟨e, rfl⟩

theorem execFsub_cases (h : execFsub rd ra rb s = .next t) :
    (∃ p, s.readPair ra rb = .ok p ∧ t = (s.setR rd (.field p.t) (toW (fsub p.a p.b p.m))).finish) ∨
      ∃ e, t = s.fail e := by
  obtain ⟨u, hu, rfl⟩ | ⟨e, -, rfl⟩ := State.command_cases h
  · obtain ⟨p, hp, hu⟩ := bind_eq_ok hu
    obtain rfl := Except.ok.inj hu
    exact .inl ⟨p, hp, rfl⟩
  · exact .inr ⟨e, rfl⟩

theorem execFmul_cases (h : execFmul rd ra rb s = .next t) :
    (∃ p, s.readPair ra rb = .ok p ∧ t = (s.setR rd (.field p.t) (toW (fmul p.a p.b p.m))).finish) ∨
      ∃ e, t = s.fail e := by
  obtain ⟨u, hu, rfl⟩ | ⟨e, -, rfl⟩ := State.command_cases h
  · obtain ⟨p, hp, hu⟩ := bind_eq_ok hu
    obtain rfl := Except.ok.inj hu
    exact .inl ⟨p, hp, rfl⟩
  · exact .inr ⟨e, rfl⟩

theorem execFdiv_cases (h : execFdiv rd ra rb s = .next t) :
    (∃ p v, s.readPair ra rb = .ok p ∧ fdiv p.a p.b p.m = .ok v ∧ t = (s.setR rd (.field p.t) (toW v)).finish) ∨
      ∃ e, t = s.fail e := by
  obtain ⟨u, hu, rfl⟩ | ⟨e, -, rfl⟩ := State.command_cases h
  · obtain ⟨p, hp, hu⟩ := bind_eq_ok hu
    obtain ⟨v, hv, hu⟩ := bind_eq_ok hu
    obtain rfl := Except.ok.inj hu
    exact .inl ⟨p, v, hp, hv, rfl⟩
  · exact .inr ⟨e, rfl⟩

theorem execFinv_cases (h : execFinv rd ra s = .next t) :
    (∃ a f v, s.rfield ra = .ok (a, f) ∧ fdiv 1 a (s.fieldOf f) = .ok v ∧ t = (s.setR rd (.field f) (toW v)).finish) ∨
      ∃ e, t = s.fail e := by
  obtain ⟨u, hu, rfl⟩ | ⟨e, -, rfl⟩ := State.command_cases h
  · obtain ⟨⟨a, f⟩, ha, hu⟩ := bind_eq_ok hu
    obtain ⟨v, hv, hu⟩ := bind_eq_ok hu
    obtain rfl := Except.ok.inj hu
    exact .inl ⟨a, f, v, ha, hv, rfl⟩
  · exact .inr ⟨e, rfl⟩

theorem execFpow_cases (h : execFpow rd ra rb s = .next t) :
    (∃ a f x, s.rfield ra = .ok (a, f) ∧ s.rint rb = .ok x ∧
      t = (s.setR rd (.field f) (toW (fpow a x (s.fieldOf f)))).finish) ∨ ∃ e, t = s.fail e := by
  obtain ⟨u, hu, rfl⟩ | ⟨e, -, rfl⟩ := State.command_cases h
  · obtain ⟨⟨a, f⟩, ha, hu⟩ := bind_eq_ok hu
    obtain ⟨x, hx, hu⟩ := bind_eq_ok hu
    obtain rfl := Except.ok.inj hu
    exact .inl ⟨a, f, x, ha, hx, rfl⟩
  · exact .inr ⟨e, rfl⟩

theorem execCset_cases (h : execCset ra rb s = .next t) :
    (∃ a b ta tb, s.rfield ra = .ok (a, ta) ∧ s.rfield rb = .ok (b, tb) ∧ s.umv = true ∧
      s.fieldOf ta = s.um.toNat ∧ s.fieldOf tb = s.um.toNat ∧ t = (s.setUserCurve a b).finish) ∨ ∃ e, t = s.fail e := by
  obtain ⟨u, hu, rfl⟩ | ⟨e, -, rfl⟩ := State.command_cases h
  · obtain ⟨⟨a, ta⟩, ha, hu⟩ := bind_eq_ok hu
    obtain ⟨⟨b, tb⟩, hb, hu⟩ := bind_eq_ok hu
    obtain ⟨hm, hu⟩ := check_eq_ok hu
    obtain ⟨hf, hu⟩ := check_eq_ok hu
    obtain rfl := Except.ok.inj hu
    simp only [not_or, not_not] at hf
    exact .inl ⟨a, b, ta, tb, ha, hb, by simpa using hm, hf.1, hf.2, rfl⟩
  · exact .inr ⟨e, rfl⟩

theorem execPnew_cases {mode : CurveSel} (h : execPnew rd ra rb mode s = .next t) :
    (∃ x y tx ty, s.rfield ra = .ok (x, tx) ∧ s.rfield rb = .ok (y, ty) ∧ s.selectCurve mode = .ok mode ∧
      s.fieldOf tx = (s.curveOf mode).m ∧ s.fieldOf ty = (s.curveOf mode).m ∧ onCurve x y (s.curveOf mode) = true ∧
      t = (s.setQ rd (.coord mode (toW x) (toW y))).finish) ∨ ∃ e, t = s.fail e := by
  obtain ⟨u, hu, rfl⟩ | ⟨e, -, rfl⟩ := State.command_cases h
  · obtain ⟨⟨x, tx⟩, hx, hu⟩ := bind_eq_ok hu
    obtain ⟨⟨y, ty⟩, hy, hu⟩ := bind_eq_ok hu
    obtain ⟨c, hc, hg⟩ := bind_eq_ok hu
    obtain rfl := (State.selectCurve_ok hc).1
    obtain ⟨hf, hg⟩ := check_eq_ok hg
    obtain ⟨ho, hg⟩ := test_eq_ok hg
    obtain rfl := Except.ok.inj hg
    simp only [not_or, not_not] at hf
    exact .inl ⟨x, y, tx, ty, hx, hy, hc, hf.1, hf.2, ho, rfl⟩
  · exact .inr ⟨e, rfl⟩

theorem execPinf_cases {mode : CurveSel} (h : execPinf rd mode s = .next t) :
    (s.selectCurve mode = .ok mode ∧ t = (s.setQ rd (.inf mode)).finish) ∨ ∃ e, t = s.fail e := by
  obtain ⟨u, hu, rfl⟩ | ⟨e, -, rfl⟩ := State.command_cases h
  · obtain ⟨c, hc, hg⟩ := bind_eq_ok hu
    obtain rfl := (State.selectCurve_ok hc).1
    obtain rfl := Except.ok.inj hg
    exact .inl ⟨hc, rfl⟩
  · exact .inr ⟨e, rfl⟩

theorem execPadd_cases (h : execPadd rd ra rb s = .next t) :
    (∃ p1 c1 p2 c2 r, s.qpt ra = .ok (p1, c1) ∧ s.qpt rb = .ok (p2, c2) ∧ s.curveOf c1 = s.curveOf c2 ∧
      padd p1 p2 (s.curveOf c1) = .ok r ∧ t = (s.setQ rd (pointReg c1 r)).finish) ∨ ∃ e, t = s.fail e := by
  obtain ⟨u, hu, rfl⟩ | ⟨e, -, rfl⟩ := State.command_cases h
  · obtain ⟨⟨p1, c1⟩, h1, hu⟩ := bind_eq_ok hu
    obtain ⟨⟨p2, c2⟩, h2, hu⟩ := bind_eq_ok hu
    obtain ⟨hc, hu⟩ := check_eq_ok hu
    obtain ⟨r, hr, hu⟩ := bind_eq_ok hu
    obtain rfl := Except.ok.inj hu
    exact .inl ⟨p1, c1, p2, c2, r, h1, h2, not_not.1 hc, hr, rfl⟩
  · exact .inr ⟨e, rfl⟩

theorem execPdbl_cases (h : execPdbl rd ra s = .next t) :
    (∃ p c r, s.qpt ra = .ok (p, c) ∧ padd p p (s.curveOf c) = .ok r ∧ t = (s.setQ rd (pointReg c r)).finish) ∨
      ∃ e, t = s.fail e := by
  obtain ⟨u, hu, rfl⟩ | ⟨e, -, rfl⟩ := State.command_cases h
  · obtain ⟨⟨p, c⟩, hp, hu⟩ := bind_eq_ok hu
    obtain ⟨r, hr, hu⟩ := bind_eq_ok hu
    obtain rfl := Except.ok.inj hu
    exact .inl ⟨p, c, r, hp, hr, rfl⟩
  · exact .inr ⟨e, rfl⟩

theorem execPmul_cases (h : execPmul rd ra rb s = .next t) :
    (∃ k p c r, s.rint ra = .ok k ∧ s.qpt rb = .ok (p, c) ∧ pmul k p (s.curveOf c) = .ok r ∧
      t = (s.setQ rd (pointReg c r)).finish) ∨ ∃ e, t = s.fail e := by
  obtain ⟨u, hu, rfl⟩ | ⟨e, -, rfl⟩ := State.command_cases h
  · obtain ⟨k, hk, hu⟩ := bind_eq_ok hu
    obtain ⟨⟨p, c⟩, hp, hu⟩ := bind_eq_ok hu
    obtain ⟨r, hr, hu⟩ := bind_eq_ok hu
    obtain rfl := Except.ok.inj hu
    exact .inl ⟨k, p, c, r, hk, hp, hr, rfl⟩
  · exact .inr ⟨e, rfl⟩

theorem execKload_cases (h : execKload rd ra s = .next t) :
    (∃ k p, s.rint ra = .ok k ∧ 1 ≤ k ∧ k < Config.N ∧ pmul k genG secp = .ok p ∧
      t = (s.loadKey rd k p).finish) ∨ ∃ e, t = s.fail e := by
  obtain ⟨u, hu, rfl⟩ | ⟨e, -, rfl⟩ := State.command_cases h
  · obtain ⟨k, hk, hu⟩ := bind_eq_ok hu
    obtain ⟨hc, hu⟩ := check_eq_ok hu
    obtain ⟨p, hp, hu⟩ := bind_eq_ok hu
    obtain rfl := Except.ok.inj hu
    exact .inl ⟨k, p, hk, by omega, by omega, hp, rfl⟩
  · exact .inr ⟨e, rfl⟩

theorem execSign_cases (h : execSign rd ra rb s = .next t) :
    (∃ z, rd ≠ rb ∧ s.rint ra = .ok z ∧ s.kv = true ∧
      t = ((s.setInt rd (signDigest s.params.nonce s.ksec.toNat z).1).setInt rb
        (signDigest s.params.nonce s.ksec.toNat z).2).finish) ∨ ∃ e, t = s.fail e := by
  obtain ⟨u, hu, rfl⟩ | ⟨e, -, rfl⟩ := State.command_cases h
  · obtain ⟨hd, hu⟩ := check_eq_ok hu
    obtain ⟨z, hz, hu⟩ := bind_eq_ok hu
    obtain ⟨hk, hu⟩ := check_eq_ok hu
    obtain rfl := Except.ok.inj hu
    exact .inl ⟨z, hd, hz, by simpa using hk, rfl⟩
  · exact .inr ⟨e, rfl⟩

theorem execVerify_cases (h : execVerify rd ra rb rc re s = .next t) :
    (∃ p c z r x, s.qpt ra = .ok (p, c) ∧ s.rint rb = .ok z ∧ s.rint rc = .ok r ∧ s.rint re = .ok x ∧
      s.curveOf c = secp ∧ t = (s.setInt rd (verifySig p z r x).toNat).finish) ∨ ∃ e, t = s.fail e := by
  obtain ⟨u, hu, rfl⟩ | ⟨e, -, rfl⟩ := State.command_cases h
  · obtain ⟨⟨p, c⟩, hp, hu⟩ := bind_eq_ok hu
    obtain ⟨z, hz, hu⟩ := bind_eq_ok hu
    obtain ⟨r, hr, hu⟩ := bind_eq_ok hu
    obtain ⟨x, hx, hu⟩ := bind_eq_ok hu
    obtain ⟨hc, hu⟩ := check_eq_ok hu
    obtain rfl := Except.ok.inj hu
    exact .inl ⟨p, c, z, r, x, hp, hz, hr, hx, not_not.1 hc, rfl⟩
  · exact .inr ⟨e, rfl⟩

theorem execSecenc_cases {mode : SecForm} (h : execSecenc rd ra rb mode s = .next t) :
    (∃ p c addr, s.qpt ra = .ok (p, c) ∧ s.rint rb = .ok addr ∧ s.curveOf c = secp ∧
      addr + (secEnc p mode).length ≤ Config.bufSize ∧ t = (s.putBytes rd addr (secEnc p mode)).finish) ∨
      ∃ e, t = s.fail e := by
  obtain ⟨u, hu, rfl⟩ | ⟨e, -, rfl⟩ := State.command_cases h
  · obtain ⟨⟨p, c⟩, hp, hu⟩ := bind_eq_ok hu
    obtain ⟨addr, ha, hu⟩ := bind_eq_ok hu
    obtain ⟨hc, hu⟩ := check_eq_ok hu
    obtain ⟨x, hx, hu⟩ := bind_eq_ok hu
    obtain rfl := Except.ok.inj hu
    exact .inl ⟨p, c, addr, hp, ha, not_not.1 hc, rangeCheck_ok hx, rfl⟩
  · exact .inr ⟨e, rfl⟩

theorem execSecdec_cases (h : execSecdec rd ra rb s = .next t) :
    (∃ addr n x y, s.rint ra = .ok addr ∧ s.rint rb = .ok n ∧ addr + n ≤ Config.bufSize ∧
      secDec (s.memRead addr n) = .ok (x, y) ∧ t = (s.setQ rd (.coord .secp (toW x) (toW y))).finish) ∨
      ∃ e, t = s.fail e := by
  obtain ⟨u, hu, rfl⟩ | ⟨e, -, rfl⟩ := State.command_cases h
  · obtain ⟨addr, ha, hu⟩ := bind_eq_ok hu
    obtain ⟨n, hn, hu⟩ := bind_eq_ok hu
    obtain ⟨_, hx, hu⟩ := bind_eq_ok hu
    obtain ⟨⟨x, y⟩, hd, hu⟩ := bind_eq_ok hu
    obtain rfl := Except.ok.inj hu
    exact .inl ⟨addr, n, x, y, ha, hn, rangeCheck_ok hx, hd, rfl⟩
  · exact .inr ⟨e, rfl⟩

theorem execDerenc_cases (h : execDerenc rd ra rb rc s = .next t) :
    (∃ r x addr, s.rint ra = .ok r ∧ s.rint rb = .ok x ∧ s.rint rc = .ok addr ∧
      addr + (derEnc r x).length ≤ Config.bufSize ∧ t = (s.putBytes rd addr (derEnc r x)).finish) ∨
      ∃ e, t = s.fail e := by
  obtain ⟨u, hu, rfl⟩ | ⟨e, -, rfl⟩ := State.command_cases h
  · obtain ⟨r, hr, hu⟩ := bind_eq_ok hu
    obtain ⟨x, hx, hu⟩ := bind_eq_ok hu
    obtain ⟨addr, ha, hu⟩ := bind_eq_ok hu
    obtain ⟨_, hc, hu⟩ := bind_eq_ok hu
    obtain rfl := Except.ok.inj hu
    exact .inl ⟨r, x, addr, hr, hx, ha, rangeCheck_ok hc, rfl⟩
  · exact .inr ⟨e, rfl⟩

theorem execDerdec_cases (h : execDerdec rd ra rb rc s = .next t) :
    (∃ addr n r x, rd ≠ rc ∧ s.rint ra = .ok addr ∧ s.rint rb = .ok n ∧ addr + n ≤ Config.bufSize ∧
      derDec (s.memRead addr n) = .ok (r, x) ∧ r < 2 ^ 256 ∧ x < 2 ^ 256 ∧
      t = ((s.setInt rd r).setInt rc x).finish) ∨ ∃ e, t = s.fail e := by
  obtain ⟨u, hu, rfl⟩ | ⟨e, -, rfl⟩ := State.command_cases h
  · obtain ⟨hne, hu⟩ := check_eq_ok hu
    obtain ⟨addr, ha, hu⟩ := bind_eq_ok hu
    obtain ⟨n, hn, hu⟩ := bind_eq_ok hu
    obtain ⟨_, hx, hu⟩ := bind_eq_ok hu
    obtain ⟨⟨r, x⟩, hd, hu⟩ := bind_eq_ok hu
    obtain ⟨hc, hu⟩ := check_eq_ok hu
    obtain rfl := Except.ok.inj hu
    simp only [not_or, Nat.not_le, ge_iff_le] at hc
    exact .inl ⟨addr, n, r, x, hne, ha, hn, rangeCheck_ok hx, hd, hc.1, hc.2, rfl⟩
  · exact .inr ⟨e, rfl⟩

theorem execSparse_cases (h : execSparse rd ra rb s = .next t) :
    (∃ addr n cs, s.rint ra = .ok addr ∧ s.rint rb = .ok n ∧ addr + n ≤ Config.bufSize ∧
      parseScript (s.memRead addr n) = .ok cs ∧ t = (s.setInt rd cs.length).finish) ∨ ∃ e, t = s.fail e := by
  obtain ⟨u, hu, rfl⟩ | ⟨e, -, rfl⟩ := State.command_cases h
  · obtain ⟨addr, ha, hu⟩ := bind_eq_ok hu
    obtain ⟨n, hn, hu⟩ := bind_eq_ok hu
    obtain ⟨_, hx, hu⟩ := bind_eq_ok hu
    obtain ⟨cs, hc, hu⟩ := bind_eq_ok hu
    obtain rfl := Except.ok.inj hu
    exact .inl ⟨addr, n, cs, ha, hn, rangeCheck_ok hx, hc, rfl⟩
  · exact .inr ⟨e, rfl⟩

theorem execSeval_cases (h : execSeval rd ra rb rc re rz s = .next t) :
    (∃ aA nA aB nB z cA cB, s.rint ra = .ok aA ∧ s.rint rb = .ok nA ∧ s.rint rc = .ok aB ∧ s.rint re = .ok nB ∧
      s.rint rz = .ok z ∧ aA + nA ≤ Config.bufSize ∧ aB + nB ≤ Config.bufSize ∧
      parseScript (s.memRead aA nA) = .ok cA ∧ parseScript (s.memRead aB nB) = .ok cB ∧
      t = (s.setInt rd (evalScript s.params.sighash (combineScripts cA cB) z).toNat).finish) ∨ ∃ e, t = s.fail e := by
  obtain ⟨u, hu, rfl⟩ | ⟨e, -, rfl⟩ := State.command_cases h
  · obtain ⟨aA, h1, hu⟩ := bind_eq_ok hu
    obtain ⟨nA, h2, hu⟩ := bind_eq_ok hu
    obtain ⟨aB, h3, hu⟩ := bind_eq_ok hu
    obtain ⟨nB, h4, hu⟩ := bind_eq_ok hu
    obtain ⟨z, h5, hu⟩ := bind_eq_ok hu
    obtain ⟨_, h6, hu⟩ := bind_eq_ok hu
    obtain ⟨_, h7, hu⟩ := bind_eq_ok hu
    obtain ⟨cA, h8, hu⟩ := bind_eq_ok hu
    obtain ⟨cB, h9, hu⟩ := bind_eq_ok hu
    obtain rfl := Except.ok.inj hu
    exact .inl ⟨aA, nA, aB, nB, z, cA, cB, h1, h2, h3, h4, h5, rangeCheck_ok h6, rangeCheck_ok h7, h8, h9, rfl⟩
  · exact .inr ⟨e, rfl⟩

/-- All that a script command can answer in a state that holds an evaluation (R411, R413). -/
theorem State.scriptStep_cases {f : Eval → Option Stack} (h : s.scriptStep f = .next t) :
    ∃ ev, s.eval = some ev ∧
      ((f ev = none ∧ t = s.finishEval ev false) ∨
        ∃ st, f ev = some st ∧ t = { s with eval := some { ev with stack := st, pc := ev.pc + 1 } }) := by
  unfold State.scriptStep at h
  split at h
  · cases h
  · split at h <;> cases h
    · exact ⟨_, ‹_›, .inl ⟨‹_›, rfl⟩⟩
    · exact ⟨_, ‹_›, .inr ⟨_, ‹_›, rfl⟩⟩

/-- SEVAL's completion writes the verdict and nothing else (R413, R420). -/
theorem State.finishEval_eq (s : State) (ev : Eval) (v : Bool) : s.finishEval ev v = (s.setInt ev.rd v.toNat).finish := rfl

end Sys2Proof.Machine
end

