-- ==== Sys2Proof/Laws/PerInstr.lean ====
section
/-!
SUPPORT. The family EncodesTableRow: the encoding of every well-formed instruction has the fixed bits of one row of its
mnemonic in spec/opcode_table.json (30_encoding.md R146, R161, R162). The rows stand below as that table's own
"fixed" entries.
-/

namespace Sys2Proof.Laws.EncodesTableRow

open Sys2Proof Sys2Proof.Machine

/-- One "fixed" entry of a row of the opcode table: bits hi:lo hold the value. -/
structure FixedBits where
  hi : Nat
  lo : Nat
  value : Nat
  deriving DecidableEq, Repr

/-- The rows that spec/opcode_table.json gives the instruction's mnemonic. -/
@[simp] def rows : Instr → List (List FixedBits)
  | .nop => [[⟨31, 0, 0x0⟩]]
  | .rmov .. => [[⟨7, 0, 0x1⟩, ⟨31, 16, 0x0⟩]]
  | .qmov .. => [[⟨7, 0, 0x2⟩, ⟨31, 16, 0x0⟩]]
  | .rclr .. => [[⟨7, 0, 0x3⟩, ⟨31, 12, 0x0⟩]]
  | .qclr .. => [[⟨7, 0, 0x4⟩, ⟨31, 12, 0x0⟩]]
  | .mset .. => [[⟨11, 0, 0x10⟩, ⟨31, 16, 0x0⟩]]
  | .fnew .. => [[⟨7, 0, 0x11⟩, ⟨27, 16, 0x0⟩]]
  | .fred .. => [[⟨7, 0, 0x12⟩, ⟨27, 16, 0x0⟩]]
  | .fadd .. => [[⟨7, 0, 0x13⟩, ⟨31, 20, 0x0⟩]]
  | .fsub .. => [[⟨7, 0, 0x14⟩, ⟨31, 20, 0x0⟩]]
  | .fmul .. => [[⟨7, 0, 0x15⟩, ⟨31, 20, 0x0⟩]]
  | .fdiv .. => [[⟨7, 0, 0x16⟩, ⟨31, 20, 0x0⟩]]
  | .finv .. => [[⟨7, 0, 0x17⟩, ⟨31, 16, 0x0⟩]]
  | .fpow .. => [[⟨7, 0, 0x18⟩, ⟨31, 20, 0x0⟩]]
  | .cset .. => [[⟨11, 0, 0x20⟩, ⟨31, 20, 0x0⟩]]
  | .pnew .. => [[⟨7, 0, 0x21⟩, ⟨27, 20, 0x0⟩]]
  | .pinf .. => [[⟨7, 0, 0x22⟩, ⟨27, 12, 0x0⟩]]
  | .padd .. => [[⟨7, 0, 0x23⟩, ⟨31, 20, 0x0⟩]]
  | .pdbl .. => [[⟨7, 0, 0x24⟩, ⟨31, 16, 0x0⟩]]
  | .pmul .. => [[⟨7, 0, 0x25⟩, ⟨31, 20, 0x0⟩]]
  | .kload .. => [[⟨7, 0, 0x30⟩, ⟨31, 16, 0x0⟩]]
  | .sign .. => [[⟨7, 0, 0x31⟩, ⟨31, 20, 0x0⟩]]
  | .verify .. => [[⟨7, 0, 0x32⟩, ⟨31, 28, 0x0⟩]]
  | .secenc .. => [[⟨7, 0, 0x40⟩, ⟨27, 20, 0x0⟩]]
  | .secdec .. => [[⟨7, 0, 0x41⟩, ⟨31, 20, 0x0⟩]]
  | .derenc .. => [[⟨7, 0, 0x42⟩, ⟨31, 24, 0x0⟩]]
  | .derdec .. => [[⟨7, 0, 0x43⟩, ⟨31, 24, 0x0⟩]]
  | .sparse .. => [[⟨7, 0, 0x50⟩, ⟨31, 20, 0x0⟩]]
  | .seval .. => [[⟨7, 0, 0x51⟩]]
  | .push .. =>
    [ [⟨7, 0, 0x1⟩],
      [⟨7, 1, 0x1⟩],
      [⟨7, 2, 0x1⟩],
      [⟨7, 3, 0x1⟩],
      [⟨7, 4, 0x1⟩],
      [⟨7, 5, 0x1⟩],
      [⟨7, 3, 0x8⟩],
      [⟨7, 2, 0x12⟩] ]
  | .opDup => [[⟨7, 0, 0x76⟩]]
  | .opEqual => [[⟨7, 0, 0x87⟩]]
  | .opEqualverify => [[⟨7, 0, 0x88⟩]]
  | .opHash160 => [[⟨7, 0, 0xA9⟩]]
  | .opChecksig => [[⟨7, 0, 0xAC⟩]]

/-- The bits of a code as the opcode table numbers them: a command word's own, or a script command's first byte. -/
def bits : Code → Word32
  | .cmd w => w
  | .script [] => 0
  | .script (b :: _) => b.setWidth 32

/-- A well-formed instruction's code has the fixed bits of a row of its mnemonic. -/
def Statement (i : Instr) : Prop :=
  i.wellFormed = true → ∃ row ∈ rows i, ∀ f ∈ row, bitsOf (bits (encode i)) f.hi f.lo = f.value

/-- The word of given fields, as a number (R141). -/
theorem bits_cmdCode (o : Fin 256) (rd ra rb rc re m : RegIdx) :
    (bits (cmdCode o rd ra rb rc re m)).toNat =
      o.val + 2 ^ 8 * rd.val + 2 ^ 12 * ra.val + 2 ^ 16 * rb.val + 2 ^ 20 * rc.val + 2 ^ 24 * re.val + 2 ^ 28 * m.val := by
  simp only [bits, cmdCode, wordOf, BitVec.toNat_ofNat]
  exact Nat.mod_eq_of_lt (by omega)

theorem nop : Statement .nop := by
  simp [Statement, rows, encode, bitsOf, bits_cmdCode]

theorem rmov (rd ra : RegIdx) : Statement (.rmov rd ra) := by
  simp [Statement, rows, encode, bitsOf, bits_cmdCode]
  omega

theorem qmov (rd ra : RegIdx) : Statement (.qmov rd ra) := by
  simp [Statement, rows, encode, bitsOf, bits_cmdCode]
  omega

theorem rclr (rd : RegIdx) : Statement (.rclr rd) := by
  simp [Statement, rows, encode, bitsOf, bits_cmdCode]
  omega

theorem qclr (rd : RegIdx) : Statement (.qclr rd) := by
  simp [Statement, rows, encode, bitsOf, bits_cmdCode]
  omega

theorem mset (ra : RegIdx) : Statement (.mset ra) := by
  simp [Statement, rows, encode, bitsOf, bits_cmdCode]
  omega

theorem fnew (rd ra : RegIdx) (m : FieldSel) : Statement (.fnew rd ra m) := by
  simp [Statement, rows, encode, bitsOf, bits_cmdCode]
  omega

theorem fred (rd ra : RegIdx) (m : FieldSel) : Statement (.fred rd ra m) := by
  simp [Statement, rows, encode, bitsOf, bits_cmdCode]
  omega

theorem fadd (rd ra rb : RegIdx) : Statement (.fadd rd ra rb) := by
  simp [Statement, rows, encode, bitsOf, bits_cmdCode]
  omega

theorem fsub (rd ra rb : RegIdx) : Statement (.fsub rd ra rb) := by
  simp [Statement, rows, encode, bitsOf, bits_cmdCode]
  omega

theorem fmul (rd ra rb : RegIdx) : Statement (.fmul rd ra rb) := by
  simp [Statement, rows, encode, bitsOf, bits_cmdCode]
  omega

theorem fdiv (rd ra rb : RegIdx) : Statement (.fdiv rd ra rb) := by
  simp [Statement, rows, encode, bitsOf, bits_cmdCode]
  omega

theorem finv (rd ra : RegIdx) : Statement (.finv rd ra) := by
  simp [Statement, rows, encode, bitsOf, bits_cmdCode]
  omega

theorem fpow (rd ra rb : RegIdx) : Statement (.fpow rd ra rb) := by
  simp [Statement, rows, encode, bitsOf, bits_cmdCode]
  omega

theorem cset (ra rb : RegIdx) : Statement (.cset ra rb) := by
  simp [Statement, rows, encode, bitsOf, bits_cmdCode]
  omega

theorem pnew (rd ra rb : RegIdx) (m : CurveSel) : Statement (.pnew rd ra rb m) := by
  simp [Statement, rows, encode, bitsOf, bits_cmdCode]
  omega

theorem pinf (rd : RegIdx) (m : CurveSel) : Statement (.pinf rd m) := by
  simp [Statement, rows, encode, bitsOf, bits_cmdCode]
  omega

theorem padd (rd ra rb : RegIdx) : Statement (.padd rd ra rb) := by
  simp [Statement, rows, encode, bitsOf, bits_cmdCode]
  omega

theorem pdbl (rd ra : RegIdx) : Statement (.pdbl rd ra) := by
  simp [Statement, rows, encode, bitsOf, bits_cmdCode]
  omega

theorem pmul (rd ra rb : RegIdx) : Statement (.pmul rd ra rb) := by
  simp [Statement, rows, encode, bitsOf, bits_cmdCode]
  omega

theorem kload (rd ra : RegIdx) : Statement (.kload rd ra) := by
  simp [Statement, rows, encode, bitsOf, bits_cmdCode]
  omega

theorem sign (rd ra rb : RegIdx) : Statement (.sign rd ra rb) := by
  simp [Statement, rows, encode, bitsOf, bits_cmdCode]
  omega

theorem verify (rd ra rb rc re : RegIdx) : Statement (.verify rd ra rb rc re) := by
  simp [Statement, rows, encode, bitsOf, bits_cmdCode]
  omega

theorem secenc (rd ra rb : RegIdx) (m : SecForm) : Statement (.secenc rd ra rb m) := by
  simp [Statement, rows, encode, bitsOf, bits_cmdCode]
  omega

theorem secdec (rd ra rb : RegIdx) : Statement (.secdec rd ra rb) := by
  simp [Statement, rows, encode, bitsOf, bits_cmdCode]
  omega

theorem derenc (rd ra rb rc : RegIdx) : Statement (.derenc rd ra rb rc) := by
  simp [Statement, rows, encode, bitsOf, bits_cmdCode]
  omega

theorem derdec (rd ra rb rc : RegIdx) : Statement (.derdec rd ra rb rc) := by
  simp [Statement, rows, encode, bitsOf, bits_cmdCode]
  omega

theorem sparse (rd ra rb : RegIdx) : Statement (.sparse rd ra rb) := by
  simp [Statement, rows, encode, bitsOf, bits_cmdCode]
  omega

theorem seval (rd ra rb rc re rz : RegIdx) : Statement (.seval rd ra rb rc re rz) := by
  simp [Statement, rows, encode, bitsOf, bits_cmdCode]
  omega

theorem push (d : Bytes) : Statement (.push d) := by
  intro h
  obtain ⟨h1, h2⟩ : 1 ≤ d.length ∧ d.length ≤ 75 := of_decide_eq_true h
  have hb : (bits (encode (.push d))).toNat = d.length := by
    simp only [encode, ScriptCmd.bytes, bits, BitVec.toNat_setWidth, BitVec.toNat_ofNat]
    omega
  simp only [rows, List.mem_cons, List.not_mem_nil, or_false, exists_eq_or_imp, exists_eq_left, forall_eq, bitsOf, hb]
  omega

theorem opDup : Statement .opDup := by
  simp [Statement, rows, encode, ScriptOp.byte, bits, bitsOf]

theorem opEqual : Statement .opEqual := by
  simp [Statement, rows, encode, ScriptOp.byte, bits, bitsOf]

theorem opEqualverify : Statement .opEqualverify := by
  simp [Statement, rows, encode, ScriptOp.byte, bits, bitsOf]

theorem opHash160 : Statement .opHash160 := by
  simp [Statement, rows, encode, ScriptOp.byte, bits, bitsOf]

theorem opChecksig : Statement .opChecksig := by
  simp [Statement, rows, encode, ScriptOp.byte, bits, bitsOf]

end Sys2Proof.Laws.EncodesTableRow
end

