-- ==== Sys2Proof/Laws/Port.lean ====
section
/-!
SUPPORT. The host register map (10_state.md section 7): which place a byte offset of a window names, and what replacing one
word of a 256-bit value does (20_memory.md R108).
-/

namespace Sys2Proof.Machine

/-- A byte offset below 2^16 and its word number (R103). -/
theorem atOffset_toNat {n : Nat} (h : n < 2 ^ 16) : (atOffset n).toNat = n / 4 := by
  simp only [atOffset, BitVec.toNat_ofNat]
  exact Nat.mod_eq_of_lt (by omega)

theorem finOfNat_val (i : RegIdx) : Fin.ofNat 16 i.val = i := Fin.ext (Nat.mod_eq_of_lt i.isLt)

/-- Word j of R[i] (R68). -/
theorem placeOf_rwin (i : RegIdx) {j : Nat} (hj : j < 8) :
    placeOf (atOffset (0x100 + 0x20 * i.val + 4 * j)) = .rwin i j := by
  have hi := i.isLt
  rw [placeOf, atOffset_toNat (by omega), show (0x100 + 0x20 * i.val + 4 * j) / 4 = 0x40 + (8 * i.val + j) by omega]
  unfold placeAt
  iterate 14 rw [if_neg (by omega)]
  rw [if_pos (by omega), show (0x40 + (8 * i.val + j) - 0x40) / 8 = i.val by omega,
    show (0x40 + (8 * i.val + j) - 0x40) % 8 = j by omega]
  rw [finOfNat_val]

/-- Words of the block of Q[i]: x, y, then reserved (R69). -/
theorem placeOf_qwin (i : RegIdx) {j : Nat} (hj : j < 32) :
    placeOf (atOffset (0x400 + 0x80 * i.val + 4 * j)) =
      if j < 8 then .qx i j else if j < 16 then .qy i (j - 8) else .reserved := by
  have hi := i.isLt
  rw [placeOf, atOffset_toNat (by omega), show (0x400 + 0x80 * i.val + 4 * j) / 4 = 0x100 + (32 * i.val + j) by omega]
  unfold placeAt
  iterate 16 rw [if_neg (by omega)]
  rw [if_pos (by omega), qPlace, show (0x100 + (32 * i.val + j) - 0x100) / 32 = i.val by omega,
    show (0x100 + (32 * i.val + j) - 0x100) % 32 = j by omega]
  rw [finOfNat_val]

/-- Word k of the BUF window (R70). -/
theorem placeOf_bufw {k : Nat} (hk : k < 1024) : placeOf (atOffset (0x1000 + 4 * k)) = .bufw k := by
  rw [placeOf, atOffset_toNat (by omega), show (0x1000 + 4 * k) / 4 = 0x400 + k by omega]
  unfold placeAt
  iterate 18 rw [if_neg (by omega)]
  rw [if_pos (by omega)]
  simp

/-- Replacing word j of a value: word j is the new word, every other word is kept (R68, R108). -/
theorem setWord256_word (u : W256) {j k : Nat} (v : Word32) (hj : j < 8) (hk : k < 8) :
    (setWord256 u j v).toNat / 2 ^ (32 * k) % 2 ^ 32 =
      if k = j then v.toNat else u.toNat / 2 ^ (32 * k) % 2 ^ 32 := by
  have hu := u.isLt
  have hv := v.isLt
  rw [setWord256, toW_toNat]
  · interval_cases j <;> interval_cases k <;> simp <;> omega
  · interval_cases j <;> simp <;> omega

end Sys2Proof.Machine
end

