-- ==== Sys2Proof/Laws/Prime.lean ====
section
/-!
SUPPORT. P and N are prime (90_conflicts.md C9), by Lucas certificates.
-/

namespace Sys2Proof.Machine

/-- A power is 1 in ZMod p exactly when `modexp` says so. -/
theorem zmod_pow_eq_one_iff (a k : Nat) {p : Nat} (hp : 1 < p) : (a : ZMod p) ^ k = 1 ↔ modexp a k p = 1 := by
  rw [modexp_eq a k hp, ← Nat.cast_pow, ← Nat.cast_one, ZMod.natCast_eq_natCast_iff', Nat.mod_eq_of_lt hp]

/-- A Lucas certificate: `a` generates the units modulo `p`, where `l` lists the prime factors of p - 1. -/
def certificate (p a : Nat) (l : List Nat) : Bool :=
  decide (1 < p ∧ l.prod = p - 1 ∧ modexp a (p - 1) p = 1 ∧ ∀ q ∈ l, modexp a ((p - 1) / q) p ≠ 1)

theorem prime_of_certificate {p a : Nat} {l : List Nat} (h : certificate p a l = true) (hl : ∀ q ∈ l, q.Prime) :
    p.Prime := by
  obtain ⟨hp, hprod, h1, h2⟩ := of_decide_eq_true h
  refine lucas_primality p (a : ZMod p) ((zmod_pow_eq_one_iff a _ hp).2 h1) fun q hq hd => ?_
  rw [Ne, zmod_pow_eq_one_iff a _ hp]
  rw [← hprod] at hd
  obtain ⟨r, hr, hqr⟩ := (Prime.dvd_prod_iff hq.prime).1 hd
  rw [(Nat.prime_dvd_prime_iff_eq hq (hl r hr)).1 hqr]
  exact h2 r hr

/-- The certificates, checked in one evaluation; each one's factors are small or certified before it. -/
theorem certificates :
    certificate 107590001 3
      [2, 2, 2, 2, 5, 5, 5, 5, 7, 29, 53] = true ∧
    certificate 255515944373312847190720520512484175977 3
      [2, 2, 2, 7, 7, 11, 1627, 2657, 4423, 41201, 96557, 7240687, 107590001] = true ∧
    certificate 13331831 13
      [2, 5, 971, 1373] = true ∧
    certificate 173378833005251801 6
      [2, 2, 2, 5, 5, 2621, 24809, 13331831] = true ∧
    certificate 22149492674086928081353 5
      [2, 2, 2, 3, 5323, 173378833005251801] = true ∧
    certificate 132896956044521568488119 6
      [2, 3, 22149492674086928081353] = true ∧
    certificate 205115282021455665897114700593932402728804164701536103180137503955397371 10
      [2, 3, 5, 29, 29, 31, 7723, 132896956044521568488119, 255515944373312847190720520512484175977] = true ∧
    certificate Config.P 3
      [2, 3, 7, 13441, 205115282021455665897114700593932402728804164701536103180137503955397371] = true ∧
    certificate 44706919 6
      [2, 3, 797, 9349] = true ∧
    certificate 174723607534414371449 3
      [2, 2, 2, 17, 59, 4051, 120233, 44706919] = true ∧
    certificate 107361793816595537 3
      [2, 2, 2, 2, 16699, 85831, 4681609] = true ∧
    certificate 297159362677 2
      [2, 2, 3, 3, 11, 461, 1627771] = true ∧
    certificate 545358713 5
      [2, 2, 2, 41, 59, 28181] = true ∧
    certificate 29047611873442575647497758179 2
      [2, 293, 305873, 545358713, 297159362677] = true ∧
    certificate 341948486974166000522343609283189 2
      [2, 2, 3, 3, 3, 109, 29047611873442575647497758179] = true ∧
    certificate Config.N 7
      [2, 2, 2, 2, 2, 2, 3, 149, 631, 107361793816595537, 174723607534414371449, 341948486974166000522343609283189] = true := by
  decide +kernel

theorem prime_107590001 : Nat.Prime 107590001 := by
  refine prime_of_certificate certificates.1 ?_
  simp only [List.forall_mem_cons]
  exact ⟨by norm_num, by norm_num, by norm_num, by norm_num, by norm_num, by norm_num, by norm_num, by norm_num, by
    norm_num, by norm_num, by norm_num, by simp⟩

theorem prime_255515944373 : Nat.Prime 255515944373312847190720520512484175977 := by
  refine prime_of_certificate certificates.2.1 ?_
  simp only [List.forall_mem_cons]
  exact ⟨by norm_num, by norm_num, by norm_num, by norm_num, by norm_num, by norm_num, by norm_num, by norm_num, by
    norm_num, by norm_num, by norm_num, by norm_num, prime_107590001, by simp⟩

theorem prime_13331831 : Nat.Prime 13331831 := by
  refine prime_of_certificate certificates.2.2.1 ?_
  simp only [List.forall_mem_cons]
  exact ⟨by norm_num, by norm_num, by norm_num, by norm_num, by simp⟩

theorem prime_173378833005251801 : Nat.Prime 173378833005251801 := by
  refine prime_of_certificate certificates.2.2.2.1 ?_
  simp only [List.forall_mem_cons]
  exact ⟨by norm_num, by norm_num, by norm_num, by norm_num, by norm_num, by norm_num, by norm_num, prime_13331831, by
    simp⟩

theorem prime_22149492674086928081353 : Nat.Prime 22149492674086928081353 := by
  refine prime_of_certificate certificates.2.2.2.2.1 ?_
  simp only [List.forall_mem_cons]
  exact ⟨by norm_num, by norm_num, by norm_num, by norm_num, by norm_num, prime_173378833005251801, by simp⟩

theorem prime_132896956044521568488119 : Nat.Prime 132896956044521568488119 := by
  refine prime_of_certificate certificates.2.2.2.2.2.1 ?_
  simp only [List.forall_mem_cons]
  exact ⟨by norm_num, by norm_num, prime_22149492674086928081353, by simp⟩

theorem prime_205115282021 : Nat.Prime 205115282021455665897114700593932402728804164701536103180137503955397371 := by
  refine prime_of_certificate certificates.2.2.2.2.2.2.1 ?_
  simp only [List.forall_mem_cons]
  exact ⟨by norm_num, by norm_num, by norm_num, by norm_num, by norm_num, by norm_num, by norm_num,
    prime_132896956044521568488119, prime_255515944373, by simp⟩

theorem prime_P : Nat.Prime Config.P := by
  refine prime_of_certificate certificates.2.2.2.2.2.2.2.1 ?_
  simp only [List.forall_mem_cons]
  exact ⟨by norm_num, by norm_num, by norm_num, by norm_num, prime_205115282021, by simp⟩

theorem prime_44706919 : Nat.Prime 44706919 := by
  refine prime_of_certificate certificates.2.2.2.2.2.2.2.2.1 ?_
  simp only [List.forall_mem_cons]
  exact ⟨by norm_num, by norm_num, by norm_num, by norm_num, by simp⟩

theorem prime_174723607534414371449 : Nat.Prime 174723607534414371449 := by
  refine prime_of_certificate certificates.2.2.2.2.2.2.2.2.2.1 ?_
  simp only [List.forall_mem_cons]
  exact ⟨by norm_num, by norm_num, by norm_num, by norm_num, by norm_num, by norm_num, by norm_num, prime_44706919, by
    simp⟩

theorem prime_107361793816595537 : Nat.Prime 107361793816595537 := by
  refine prime_of_certificate certificates.2.2.2.2.2.2.2.2.2.2.1 ?_
  simp only [List.forall_mem_cons]
  exact ⟨by norm_num, by norm_num, by norm_num, by norm_num, by norm_num, by norm_num, by norm_num, by simp⟩

theorem prime_297159362677 : Nat.Prime 297159362677 := by
  refine prime_of_certificate certificates.2.2.2.2.2.2.2.2.2.2.2.1 ?_
  simp only [List.forall_mem_cons]
  exact ⟨by norm_num, by norm_num, by norm_num, by norm_num, by norm_num, by norm_num, by norm_num, by simp⟩

theorem prime_545358713 : Nat.Prime 545358713 := by
  refine prime_of_certificate certificates.2.2.2.2.2.2.2.2.2.2.2.2.1 ?_
  simp only [List.forall_mem_cons]
  exact ⟨by norm_num, by norm_num, by norm_num, by norm_num, by norm_num, by norm_num, by simp⟩

theorem prime_29047611873442575647497758179 : Nat.Prime 29047611873442575647497758179 := by
  refine prime_of_certificate certificates.2.2.2.2.2.2.2.2.2.2.2.2.2.1 ?_
  simp only [List.forall_mem_cons]
  exact ⟨by norm_num, by norm_num, by norm_num, prime_545358713, prime_297159362677, by simp⟩

theorem prime_341948486974 : Nat.Prime 341948486974166000522343609283189 := by
  refine prime_of_certificate certificates.2.2.2.2.2.2.2.2.2.2.2.2.2.2.1 ?_
  simp only [List.forall_mem_cons]
  exact ⟨by norm_num, by norm_num, by norm_num, by norm_num, by norm_num, by norm_num,
    prime_29047611873442575647497758179, by simp⟩

theorem prime_N : Nat.Prime Config.N := by
  refine prime_of_certificate certificates.2.2.2.2.2.2.2.2.2.2.2.2.2.2.2 ?_
  simp only [List.forall_mem_cons]
  exact ⟨by norm_num, by norm_num, by norm_num, by norm_num, by norm_num, by norm_num, by norm_num, by norm_num, by
    norm_num, prime_107361793816595537, prime_174723607534414371449, prime_341948486974, by simp⟩

end Sys2Proof.Machine
end

