-- ==== Sys2Proof/Laws/Script.lean ====
section
/-!
SUPPORT. The script unit (44_script.md R402-R419; 00_scope.md R19): digest lengths, what one script command does to the
stack's size, evaluation of a command list in two parts, parsing independent of the fuel.
-/

namespace Sys2Proof.Machine

/-! ### Digests -/

theorem sha256_length (msg : Bytes) : (sha256 msg).length = 32 := by
  simp [sha256]

theorem ripemd160_length (msg : Bytes) : (ripemd160 msg).length = 20 := by
  simp [ripemd160]

/-- OP_HASH160 pushes 20 bytes (R418). -/
theorem hash160_length (x : Bytes) : (hash160 x).length = 20 := ripemd160_length _

theorem hmac_length (key d : Bytes) : (hmac key d).length = 32 := sha256_length _

/-! ### The stack -/

/-- OP_EQUAL and OP_CHECKSIG push 0 or 1 byte (R416, R419). -/
theorem truth_length_le (b : Bool) : (truth b).length ≤ 1 := by
  cases b <;> simp [truth]

/-- A script command adds at most one element to the stack (R410). -/
theorem stackStep_length {policy : SighashPolicy} {z : Nat} {st st' : Stack} {c : ScriptCmd}
    (h : stackStep policy z st c = some st') : st'.length ≤ st.length + 1 := by
  cases c with
  | push d => cases h; simp
  | op o =>
    cases o
    case dup => cases st <;> cases h; simp
    case hash160 => cases st <;> cases h; simp
    case equal =>
      match st, h with
      | _ :: _ :: _, h => cases h; simp
    case equalverify =>
      match st, h with
      | a :: b :: st, h =>
        simp only [stackStep, stackEqualverify] at h
        split at h <;> cases h
        simp; omega
    case checksig =>
      match st, h with
      | pk :: sig :: st, h =>
        simp only [stackStep, stackChecksig, Option.map_eq_some_iff] at h
        obtain ⟨v, -, rfl⟩ := h
        simp

/-- Commands run one list after the other (R413). -/
theorem runStack_append (policy : SighashPolicy) (z : Nat) (cs ds : List ScriptCmd) (st : Stack) :
    runStack policy z (cs ++ ds) st = (runStack policy z cs st).bind (runStack policy z ds) := by
  induction cs generalizing st with
  | nil => rfl
  | cons c cs ih =>
    simp only [List.cons_append, runStack]
    cases stackStep policy z st c with
    | none => rfl
    | some st' => exact ih st'

/-! ### Parsing -/

/-- More fuel than bytes does not change what is parsed (R402). -/
theorem parseLoop_fuel (d : Bytes) (n m : Nat) (hn : d.length ≤ n) (hm : d.length ≤ m) :
    parseLoop n d = parseLoop m d := by
  induction n generalizing d m with
  | zero =>
    obtain rfl : d = [] := List.length_eq_zero_iff.1 (by omega)
    cases m <;> rfl
  | succ n ih =>
    cases d with
    | nil => cases m <;> rfl
    | cons b d =>
      obtain ⟨m, rfl⟩ : ∃ k, m = k + 1 := ⟨m - 1, by simp at hm; omega⟩
      simp only [parseLoop]
      cases h : decodeScriptCmd (b :: d) with
      | error e => rfl
      | ok x =>
        obtain ⟨c, rest⟩ := x
        have hl := decodeScriptCmd_length h
        simp only [List.length_cons] at hl hn hm
        simp only [ih rest m (by omega) (by omega)]

/-- Parsing reads one script command from the front and parses the rest (R402). -/
theorem parseScript_of_front {d rest : Bytes} {c : ScriptCmd} (h : decodeScriptCmd d = .ok (c, rest)) :
    parseScript d = (parseScript rest).map (c :: ·) := by
  cases d with
  | nil => cases h
  | cons b d =>
    have hl := decodeScriptCmd_length h
    simp only [List.length_cons] at hl
    simp only [parseScript, List.length_cons, parseLoop, h]
    rw [parseLoop_fuel rest d.length rest.length (by omega) (by omega)]
    cases parseLoop rest.length rest <;> rfl

end Sys2Proof.Machine
end

