-- ==== Sys2Proof/Laws/Sign.lean ====
section
/-!
SUPPORT. Signing (42_ecdsa.md R303, R310-R313): the bound of the search is no cap, SIGN's default signature is that of the
first accepted candidate, and every signature for a key is that of an accepted nonce.
-/

namespace Sys2Proof.Machine

/-! ### An orbit in a finite set -/

/-- An orbit whose points have at most `m` codes is all met in its first `m` points. -/
theorem orbit_index {α β : Type} [Fintype β] (f : α → α) (x : α) (code : α → β)
    (hcode : ∀ i j, code (f^[i] x) = code (f^[j] x) → f^[i] x = f^[j] x) (n : Nat) :
    ∃ i, i < Fintype.card β ∧ f^[n] x = f^[i] x := by
  induction n using Nat.strong_induction_on with
  | _ n ih =>
    by_cases h : n < Fintype.card β
    · exact ⟨n, h, rfl⟩
    obtain ⟨i, j, hne, heq⟩ := Fintype.exists_ne_map_eq_of_card_lt
      (fun i : Fin (Fintype.card β + 1) => code (f^[i.val] x)) (by simp)
    wlog hlt : i.val < j.val generalizing i j
    · exact this j i hne.symm heq.symm (by have := Fin.val_ne_of_ne hne; omega)
    have hj := j.isLt
    obtain ⟨k, hk, hki⟩ := ih (n - j.val + i.val) (by omega)
    refine ⟨k, hk, ?_⟩
    rw [← hki, Function.iterate_add_apply, hcode _ _ heq, ← Function.iterate_add_apply, Nat.sub_add_cancel (by omega)]

/-! ### The generators of one SIGN -/

/-- The generator before its next draw, after the previous candidate was rejected (R311). -/
def nonceTurn (g : NonceGen) : NonceGen := nonceUpdate (nonceDraw g)

theorem nonceAt_eq (g : NonceGen) (n : Nat) : nonceAt g n = nonceDraw (nonceTurn^[n] g) := by
  induction n with
  | zero => rfl
  | succ n ih => rw [nonceAt, ih, Function.iterate_succ_apply']; rfl

theorem nonceInit_length (e z : Nat) : (nonceInit e z).k.length = 32 ∧ (nonceInit e z).v.length = 32 :=
  ⟨hmac_length _ _, hmac_length _ _⟩

theorem nonceTurn_length (e z n : Nat) :
    (nonceTurn^[n] (nonceInit e z)).k.length = 32 ∧ (nonceTurn^[n] (nonceInit e z)).v.length = 32 := by
  cases n with
  | zero => exact nonceInit_length e z
  | succ n => rw [Function.iterate_succ_apply']; exact ⟨hmac_length _ _, hmac_length _ _⟩

/-- The 64 bytes of a generator. -/
def nonceCode (g : NonceGen) (i : Fin 64) : Fin 256 := ((g.k ++ g.v).getD i.val 0).toFin

theorem nonceCode_inj {g h : NonceGen} (hg : g.k.length = 32 ∧ g.v.length = 32) (hh : h.k.length = 32 ∧ h.v.length = 32)
    (heq : nonceCode g = nonceCode h) : g = h := by
  have hl : g.k ++ g.v = h.k ++ h.v := by
    refine List.ext_getElem (by simp [hg, hh]) fun i h1 h2 => ?_
    have h := congrFun heq ⟨i, by simpa [hg] using h1⟩
    rw [nonceCode, nonceCode, List.getD_eq_getElem _ _ h1, List.getD_eq_getElem _ _ h2] at h
    exact BitVec.eq_of_toFin_eq h
  obtain ⟨hk, hv⟩ := List.append_inj hl (by rw [hg.1, hh.1])
  cases g; cases h; simp_all

/-- Every generator of one SIGN is met in the first `Config.nonceStates` turns. -/
theorem nonceAt_index (e z n : Nat) :
    ∃ i, i < Config.nonceStates ∧ nonceAt (nonceInit e z) n = nonceAt (nonceInit e z) i := by
  obtain ⟨i, hi, h⟩ := orbit_index nonceTurn (nonceInit e z) nonceCode
    (fun i j => nonceCode_inj (nonceTurn_length e z i) (nonceTurn_length e z j)) n
  refine ⟨i, ?_, by rw [nonceAt_eq, nonceAt_eq, h]⟩
  rwa [Fintype.card_fun, Fintype.card_fin, Fintype.card_fin] at hi

/-! ### The search -/

/-- The loop with enough turns answers the signature of the first accepted candidate. -/
theorem signLoop_first {e z n fuel : Nat} {g : NonceGen} {rs : Nat × Nat} (hn : n < fuel)
    (hrej : ∀ j, j < n → signWith e z (nonceCandidate (nonceDraw (nonceTurn^[j] g))) = none)
    (hacc : signWith e z (nonceCandidate (nonceDraw (nonceTurn^[n] g))) = some rs) :
    signLoop e z fuel g = some rs := by
  induction n generalizing fuel g with
  | zero =>
    cases fuel with
    | zero => omega
    | succ fuel => rw [signLoop, show signWith e z (nonceCandidate (nonceDraw g)) = some rs from hacc]
  | succ n ih =>
    cases fuel with
    | zero => omega
    | succ fuel =>
      rw [signLoop, show signWith e z (nonceCandidate (nonceDraw g)) = none from hrej 0 (by omega)]
      exact ih (by omega) (fun j hj => hrej (j + 1) (by omega)) hacc

/-- The loop answers nothing where no candidate is accepted. -/
theorem signLoop_none {e z : Nat} (fuel : Nat) {g : NonceGen}
    (hrej : ∀ j, signWith e z (nonceCandidate (nonceDraw (nonceTurn^[j] g))) = none) : signLoop e z fuel g = none := by
  induction fuel generalizing g with
  | zero => rfl
  | succ fuel ih =>
    rw [signLoop, show signWith e z (nonceCandidate (nonceDraw g)) = none from hrej 0]
    exact ih fun j => hrej (j + 1)

/-- What the loop answers is the signature of one of its candidates. -/
theorem signLoop_some {e z fuel : Nat} {g : NonceGen} {rs : Nat × Nat} (h : signLoop e z fuel g = some rs) :
    ∃ k, signWith e z k = some rs := by
  induction fuel generalizing g with
  | zero => cases h
  | succ fuel ih =>
    rw [signLoop] at h
    split at h
    · next hk => cases h; exact ⟨_, hk⟩
    · exact ih h

/-- The search has no cap (R313): however late the first accepted candidate comes, its signature is the answer. -/
theorem signRfc_first {e z n : Nat} {rs : Nat × Nat}
    (hrej : ∀ j, j < n → signWith e z (nonceCandidate (nonceAt (nonceInit e z) j)) = none)
    (hacc : signWith e z (nonceCandidate (nonceAt (nonceInit e z) n)) = some rs) : signRfc e z = some rs := by
  obtain ⟨i, hi, heq⟩ := nonceAt_index e z n
  have hni : n ≤ i := by
    by_contra hlt
    rw [heq, hrej i (by omega)] at hacc
    cases hacc
  refine signLoop_first (n := n) (by omega) (fun j hj => ?_) ?_
  · rw [← nonceAt_eq]; exact hrej j hj
  · rw [← nonceAt_eq]; exact hacc

/-- The search answers nothing only where no candidate is ever accepted. -/
theorem signRfc_none {e z : Nat} (hrej : ∀ j, signWith e z (nonceCandidate (nonceAt (nonceInit e z) j)) = none) :
    signRfc e z = none :=
  signLoop_none _ fun j => by rw [← nonceAt_eq]; exact hrej j

/-! ### Every signature for a key is that of an accepted nonce -/

/-- A candidate whose point is known: the signature, where neither half is 0 (R303). -/
theorem signWith_of_point {e z k x y : Nat} (hk : 1 ≤ k ∧ k < Config.N) (hp : pmul k genG secp = .ok (.aff x y))
    (hr : x % Config.N ≠ 0) (hs : (x * e + z) % Config.N ≠ 0) : ∃ rs, signWith e z k = some rs := by
  have hN : 1 < Config.N := by decide
  have hinv : modexp k (Config.N - 2) Config.N % Config.N ≠ 0 := by
    rw [modexp_eq _ _ hN, Nat.mod_mod]
    intro h
    have := prime_N.dvd_of_dvd_pow (Nat.dvd_of_mod_eq_zero h)
    exact absurd (Nat.le_of_dvd (by omega) this) (by omega)
  have hsum : fadd (fmul (x % Config.N) e Config.N) (z % Config.N) Config.N % Config.N ≠ 0 := by
    simpa [fadd, fmul, Nat.add_mod, Nat.mul_mod] using hs
  have hprod : fmul (fadd (fmul (x % Config.N) e Config.N) (z % Config.N) Config.N)
      (modexp k (Config.N - 2) Config.N) Config.N ≠ 0 := by
    intro h
    obtain h | h := (Nat.Prime.dvd_mul prime_N).1 (Nat.dvd_of_mod_eq_zero h)
    · exact hsum (Nat.mod_eq_zero_of_dvd h)
    · exact hinv (Nat.mod_eq_zero_of_dvd h)
  rw [signWith, if_pos hk, hp]
  dsimp only
  rw [if_neg (not_or_intro hr hprod)]
  exact ⟨_, rfl⟩

/-- The x coordinate of G + G. -/
def twoGx : Nat := 0xC6047F9441ED7D6D3045406E95C07CD85C778E4B8CEF3CA7ABAC09B95C709EE5

theorem small_multiples_of_G : pmul 1 genG secp = .ok (.aff Config.Gx Config.Gy) ∧
    pmul 2 genG secp = .ok (.aff twoGx 0x1AE168FEA63DC339A3C58419466CEAEEF7F632653266D0E1236431A950CFE52A) ∧
    Config.Gx % Config.N ≠ 0 ∧ twoGx % Config.N ≠ 0 ∧ Config.Gx < twoGx ∧ (twoGx - Config.Gx) % Config.N ≠ 0 := by
  decide +kernel

/-- Nonce 1 or nonce 2 is accepted for every secret that N does not divide. -/
theorem one_or_two_accepted {e : Nat} (z : Nat) (he : e % Config.N ≠ 0) :
    (∃ rs, signWith e z 1 = some rs) ∨ ∃ rs, signWith e z 2 = some rs := by
  obtain ⟨hp1, hp2, hx1, hx2, hlt, hne⟩ := small_multiples_of_G
  by_cases h1 : (Config.Gx * e + z) % Config.N = 0
  · refine .inr (signWith_of_point (by decide) hp2 hx2 fun h2 => he ?_)
    have hd : Config.N ∣ (twoGx - Config.Gx) * e := by
      have := Nat.dvd_sub (Nat.dvd_of_mod_eq_zero h2) (Nat.dvd_of_mod_eq_zero h1)
      rwa [Nat.add_sub_add_right, ← Nat.sub_mul] at this
    obtain h | h := (Nat.Prime.dvd_mul prime_N).1 hd
    · exact absurd (Nat.mod_eq_zero_of_dvd h) hne
    · exact Nat.mod_eq_zero_of_dvd h
  · exact .inl (signWith_of_point (by decide) hp1 hx1 h1)

theorem signFree_accepted (fn : NonceFn) {e : Nat} (z : Nat) (he : e % Config.N ≠ 0) :
    ∃ k, signWith e z k = some (signFree fn e z) := by
  cases h0 : signWith e z (Config.freeNonce fn e (z % Config.N)) with
  | some rs => exact ⟨_, h0.trans (by rw [signFree, h0]; rfl)⟩
  | none =>
    cases h1 : signWith e z 1 with
    | some rs => exact ⟨_, h1.trans (by rw [signFree, h0, h1]; rfl)⟩
    | none =>
      obtain ⟨rs, h⟩ := (one_or_two_accepted z he).resolve_left (by rw [h1]; rintro ⟨_, ⟨⟩⟩)
      exact ⟨_, h.trans (by rw [signFree, h0, h1, h]; rfl)⟩

/-- Every signature for a secret that N does not divide is that of an accepted nonce (R303, R307). -/
theorem signDigest_accepted (fn : NonceFn) {e : Nat} (z : Nat) (he : e % Config.N ≠ 0) :
    ∃ k, signWith e z k = some (signDigest fn e z) := by
  cases fn with
  | other => exact signFree_accepted _ z he
  | rfc6979 =>
    cases h : signRfc e z with
    | some rs =>
      obtain ⟨k, hk⟩ := signLoop_some h
      exact ⟨k, hk.trans (by rw [signDigest, h]; rfl)⟩
    | none =>
      obtain ⟨k, hk⟩ := signFree_accepted .rfc6979 z he
      exact ⟨k, hk.trans (by rw [signDigest, h]; rfl)⟩

end Sys2Proof.Machine
end

