-- ==== Sys2Proof/Tests/Slice0.lean ====
section
/-!
SUPPORT. The model's own tests: ill-formed instructions are refused, words written out from the spec's encodings decode to
their instructions, at most two small tests per instruction with the expected values of 95_test_vectors.md, and a witness
for the hypotheses of every statement.
-/

namespace Sys2Proof.Tests

open Sys2Proof Sys2Proof.Machine

/-! ### WellFormed smoke: an ill-formed term for each check -/

theorem test_sign_same_destination_refused : (Instr.sign 1 2 1).wellFormed = false := by decide
theorem test_derdec_same_destination_refused : (Instr.derdec 3 1 2 3).wellFormed = false := by decide
theorem test_push_empty_refused : (Instr.push []).wellFormed = false := by decide
theorem test_push_76_bytes_refused : (Instr.push (List.replicate 76 0)).wellFormed = false := by decide
theorem test_push_75_bytes_accepted : (Instr.push (List.replicate 75 0)).wellFormed = true := by decide

/-! ### Decoding: a word for every constructor, from the fields of R141 and the opcodes of R146 -/

theorem test_decode_nop : decodeCmd 0x00000000 = .ok .nop := by decide
/-- 45_system.md R461's example. -/
theorem test_decode_rmov : decodeCmd 0x00002701 = .ok (.rmov 7 2) := by decide
/-- 45_system.md R462's example. -/
theorem test_decode_qmov : decodeCmd 0x00000502 = .ok (.qmov 5 0) := by decide
/-- 45_system.md R463's example. -/
theorem test_decode_rclr : decodeCmd 0x00000303 = .ok (.rclr 3) := by decide
/-- 45_system.md R464's example. -/
theorem test_decode_qclr : decodeCmd 0x00000204 = .ok (.qclr 2) := by decide
theorem test_decode_mset : decodeCmd 0x0000F010 = .ok (.mset 15) := by decide
theorem test_decode_fnew : decodeCmd 0x20005411 = .ok (.fnew 4 5 .user) := by decide
theorem test_decode_fred : decodeCmd 0x1000AB12 = .ok (.fred 11 10 .n) := by decide
theorem test_decode_fadd : decodeCmd 0x00032113 = .ok (.fadd 1 2 3) := by decide
theorem test_decode_fsub : decodeCmd 0x000CBA14 = .ok (.fsub 10 11 12) := by decide
theorem test_decode_fmul : decodeCmd 0x00098715 = .ok (.fmul 7 8 9) := by decide
theorem test_decode_fdiv : decodeCmd 0x00065416 = .ok (.fdiv 4 5 6) := by decide
theorem test_decode_finv : decodeCmd 0x0000ED17 = .ok (.finv 13 14) := by decide
theorem test_decode_fpow : decodeCmd 0x000F0118 = .ok (.fpow 1 0 15) := by decide
theorem test_decode_cset : decodeCmd 0x00021020 = .ok (.cset 1 2) := by decide
theorem test_decode_pnew : decodeCmd 0x10043221 = .ok (.pnew 2 3 4 .user) := by decide
theorem test_decode_pinf : decodeCmd 0x10000822 = .ok (.pinf 8 .user) := by decide
theorem test_decode_padd : decodeCmd 0x00021023 = .ok (.padd 0 1 2) := by decide
theorem test_decode_pdbl : decodeCmd 0x00009624 = .ok (.pdbl 6 9) := by decide
theorem test_decode_pmul : decodeCmd 0x00001225 = .ok (.pmul 2 1 0) := by decide
theorem test_decode_kload : decodeCmd 0x00000130 = .ok (.kload 1 0) := by decide
theorem test_decode_sign : decodeCmd 0x00031231 = .ok (.sign 2 1 3) := by decide
theorem test_decode_verify : decodeCmd 0x04321632 = .ok (.verify 6 1 2 3 4) := by decide
theorem test_decode_secenc : decodeCmd 0x10040340 = .ok (.secenc 3 0 4 .uncompressed) := by decide
theorem test_decode_secdec : decodeCmd 0x00057241 = .ok (.secdec 2 7 5) := by decide
theorem test_decode_derenc : decodeCmd 0x00432142 = .ok (.derenc 1 2 3 4) := by decide
theorem test_decode_derdec : decodeCmd 0x00876543 = .ok (.derdec 5 6 7 8) := by decide
theorem test_decode_sparse : decodeCmd 0x00021050 = .ok (.sparse 0 1 2) := by decide
theorem test_decode_seval : decodeCmd 0x54321051 = .ok (.seval 0 1 2 3 4 5) := by decide
theorem test_decode_push : decode (.script [0x02, 0xAA, 0xBB]) = .ok (.push [0xAA, 0xBB]) := by decide
theorem test_decode_op_dup : decode (.script [0x76]) = .ok .opDup := by decide
theorem test_decode_op_equal : decode (.script [0x87]) = .ok .opEqual := by decide
theorem test_decode_op_equalverify : decode (.script [0x88]) = .ok .opEqualverify := by decide
theorem test_decode_op_hash160 : decode (.script [0xA9]) = .ok .opHash160 := by decide
theorem test_decode_op_checksig : decode (.script [0xAC]) = .ok .opChecksig := by decide

/-- The illegal words of 95_test_vectors.md section 2.1, each for its own reason. -/
theorem test_illegal_words :
    decodeCmd 0x00000005 = .error .reservedOpcode ∧ decodeCmd 0x000000FF = .error .reservedOpcode ∧
    decodeCmd 0x00000100 = .error .unusedField ∧ decodeCmd 0x10000013 = .error .unusedField ∧
    decodeCmd 0x30002111 = .error .reservedMode ∧ decodeCmd 0x20000022 = .error .reservedMode ∧
    decodeCmd 0x20000040 = .error .reservedMode ∧ decodeCmd 0x00011131 = .error .sameDestination ∧
    decodeCmd 0x00333343 = .error .sameDestination := by decide

/-! ### Small states -/

/-- The answer is a next state that passes the test. -/
def answers (x : Result) (p : State → Bool) : Bool :=
  match x with
  | .next t => p t
  | .fault _ => false
  | .refused _ => false

/-- A command completed without an error, and its state passes the test. -/
def succeeds (x : Result) (p : State → Bool) : Bool :=
  answers x fun t => t.done && !t.busy && !t.err && p t

/-- A command completed with the error, and R0 is still EMPTY. -/
def raises (x : Result) (e : Err) : Bool :=
  answers x fun t => t.done && !t.busy && t.err && decide (t.errcode = some e) && decide ((t.getR 0).tag = .empty)

/-- R[i] holds the value with the tag. -/
def holds (t : State) (i : RegIdx) (tag : Tag) (v : Nat) : Bool := decide (t.getR i = { tag := tag, val := toW v })

/-- The user field m with three elements in R1, R2 and R3, an INT in R4. -/
def inField (m a b c k : Nat) : State :=
  let s := State.setUserModulus State.reset m
  (((s.setR 1 (.field .user) (toW a)).setR 2 (.field .user) (toW b)).setR 3 (.field .user) (toW c)).setInt 4 k

/-- The curve y² = x³ + 7 over 223, its points (192, 105), (17, 56), (47, 71) in Q0 to Q2, INF in Q3, an INT in R4. -/
def onCurve223 (k : Nat) : State :=
  let s := State.setUserCurve (inField 223 192 105 119 k) 0 7
  (((s.setQ 0 (.coord .user 192 105)).setQ 1 (.coord .user 17 56)).setQ 2 (.coord .user 47 71)).setQ 3 (.inf .secp)

/-- G in Q0, and two integers in R1 and R2. -/
def withG (a b : Nat) : State :=
  ((State.reset.setQ 0 (.coord .secp (toW Config.Gx) (toW Config.Gy))).setInt 1 a).setInt 2 b

/-- Bytes in BUF from 0 on, their address and number in R1 and R2, and 0 in R3. -/
def withBytes (bs : Bytes) : State :=
  (((State.reset.memWrite 0 bs).setInt 1 0).setInt 2 bs.length).setInt 3 0

/-- An evaluation about to run the commands on a stack; its verdict goes to R9. -/
def evaluating (cmds : List ScriptCmd) (st : Stack) : State :=
  { State.reset.accept 0x51 with eval := some { cmds := cmds, pc := 0, stack := st, z := 0, rd := 9 } }

/-- The stack of the evaluation in progress. -/
def stackIs (t : State) (st : Stack) : Bool :=
  match t.eval with
  | some ev => decide (ev.stack = st ∧ ev.pc = 1)
  | none => false

/-- The evaluation has ended with the verdict. -/
def verdictIs (t : State) (v : Nat) : Bool := decide (t.eval = none) && t.done && holds t 9 .int v

/-! ### Moves and the field unit (95_test_vectors.md sections 2.1 and 2.2) -/

theorem test_nop_status : answers (step (State.reset.accept 0)) (fun t => t.readAt 0x008 = 0x00000002) = true := by
  decide
theorem test_illegal_status :
    answers (step (State.reset.accept 0x10000013)) (fun t => t.readAt 0x008 = 0x00001006) = true := by decide
theorem test_rmov_copies_tag :
    succeeds (exec (.rmov 7 1) (inField 31 17 0 0 0)) (fun t => holds t 7 (.field .user) 17) = true := by decide
theorem test_rmov_empty : raises (exec (.rmov 7 8) State.reset) .unwritten = true := by decide
theorem test_qmov_copies : succeeds (exec (.qmov 5 0) (onCurve223 0))
    (fun t => t.getQ 5 = .coord .user 192 105) = true := by decide
theorem test_rclr_clears : succeeds (exec (.rclr 1) (inField 31 17 0 0 0)) (fun t => holds t 1 .empty 0) = true := by
  decide
theorem test_qclr_clears : succeeds (exec (.qclr 2) (onCurve223 0)) (fun t => t.getQ 2 = .empty) = true := by decide
theorem test_mset_clears_user : succeeds (exec (.mset 4) (onCurve223 31))
    (fun t => t.um = 31 ∧ t.umv ∧ !t.ucv ∧ holds t 1 .empty 0 ∧ t.getQ 0 = .empty ∧ t.getQ 3 = .inf .secp) = true := by
  decide
theorem test_mset_one : raises (exec (.mset 1) (withG 1 0)) .invalidPrime = true := by decide
theorem test_fnew_largest : succeeds (exec (.fnew 3 1 .p) (withG (Config.P - 1) 0))
    (fun t => holds t 3 (.field .p) (Config.P - 1)) = true := by decide
theorem test_fnew_modulus : raises (exec (.fnew 3 1 .p) (withG Config.P 0)) .invalidNum = true := by decide
theorem test_fred_largest_p : succeeds (exec (.fred 3 1 .p) (withG (2 ^ 256 - 1) 0))
    (fun t => holds t 3 (.field .p) 0x1000003D0) = true := by decide
theorem test_fred_largest_n : succeeds (exec (.fred 3 1 .n) (withG (2 ^ 256 - 1) 0))
    (fun t => holds t 3 (.field .n) 0x14551231950B75FC4402DA1732FC9BEBE) = true := by decide
theorem test_fadd_wraps : succeeds (exec (.fadd 1 1 2) (inField 31 17 21 0 0))
    (fun t => holds t 1 (.field .user) 7) = true := by decide
theorem test_fadd_int : raises (exec (.fadd 1 4 2) (inField 31 17 21 0 0)) .tag = true := by decide
theorem test_fsub_wraps : succeeds (exec (.fsub 5 1 2) (inField 31 15 30 0 0))
    (fun t => holds t 5 (.field .user) 16) = true := by decide
theorem test_fmul_reduces : succeeds (exec (.fmul 5 1 2) (inField 31 24 19 0 0))
    (fun t => holds t 5 (.field .user) 22) = true := by decide
theorem test_fdiv_prime : succeeds (exec (.fdiv 5 1 2) (inField 31 3 24 0 0))
    (fun t => holds t 5 (.field .user) 4) = true := by decide
/-- 90_conflicts.md C2: the formula's value, not the inverse 8. -/
theorem test_fdiv_composite : succeeds (exec (.fdiv 5 1 2) (inField 15 1 2 0 0))
    (fun t => holds t 5 (.field .user) 2) = true := by decide
theorem test_finv_prime : succeeds (exec (.finv 5 1) (inField 31 24 0 0 0))
    (fun t => holds t 5 (.field .user) 22) = true := by decide
theorem test_finv_zero : raises (exec (.finv 5 2) (inField 31 24 0 0 0)) .divisionByZero = true := by decide
theorem test_fpow_small : succeeds (exec (.fpow 5 1 4) (inField 31 17 0 0 3))
    (fun t => holds t 5 (.field .user) 15) = true := by decide
theorem test_fpow_zero_base : succeeds (exec (.fpow 5 2 4) (inField 31 17 0 0 30))
    (fun t => holds t 5 (.field .user) 1) = true := by decide

/-! ### The curve unit (section 2.3) -/

theorem test_cset_sets : succeeds (exec (.cset 2 3) (inField 223 5 0 7 0))
    (fun t => t.ua = 0 ∧ t.ub = 7 ∧ t.ucv) = true := by decide
theorem test_cset_wrong_field :
    raises (exec (.cset 5 2) ((inField 223 5 0 7 0).setR 5 (.field .p) 1)) .tag = true := by decide
theorem test_pnew_on_curve : succeeds (exec (.pnew 7 1 2 .user) (onCurve223 0))
    (fun t => t.getQ 7 = .coord .user 192 105) = true := by decide
theorem test_pnew_off_curve : raises (exec (.pnew 7 1 3 .user) (onCurve223 0)) .notOnCurve = true := by decide
theorem test_pinf_secp : succeeds (exec (.pinf 3 .secp) State.reset)
    (fun t => t.readAt 0x018 = 0x00001000) = true := by decide
theorem test_pinf_no_curve : raises (exec (.pinf 3 .user) State.reset) .noUserCurve = true := by decide
theorem test_padd_distinct : succeeds (exec (.padd 7 0 1) (onCurve223 0))
    (fun t => t.getQ 7 = .coord .user 170 142) = true := by decide
theorem test_padd_mismatch_fatal : answers (step ((onCurve223 0).accept 0x00030723))
    (fun t => t.readAt 0x008 = 0x0000210E) = true := by decide
theorem test_pdbl_user : succeeds (exec (.pdbl 7 0) (onCurve223 0))
    (fun t => t.getQ 7 = .coord .user 49 71) = true := by decide
theorem test_pmul_eight : succeeds (exec (.pmul 7 4 2) (onCurve223 8))
    (fun t => t.getQ 7 = .coord .user 116 55) = true := by decide
theorem test_pmul_order : succeeds (exec (.pmul 7 4 2) (onCurve223 21))
    (fun t => t.getQ 7 = .inf .user) = true := by decide

/-! ### The ECDSA unit (section 2.4) -/

theorem test_kload_one : succeeds (exec (.kload 1 1) (withG 1 0))
    (fun t => t.kv ∧ t.ksec = 1 ∧ t.kpubx = toW Config.Gx ∧ t.getQ 1 = t.getQ 0) = true := by decide +kernel
theorem test_kload_order : raises (exec (.kload 1 1) (withG Config.N 0)) .invalidNum = true := by decide
theorem test_sign_no_key : raises (exec (.sign 2 1 3) (withG 5 0)) .noKey = true := by decide
theorem test_verify_r_zero : succeeds (exec (.verify 5 0 1 2 1) (withG 7 0)) (fun t => holds t 5 .int 0) = true := by
  decide
theorem test_verify_user_key :
    raises (exec (.verify 5 0 4 4 4) (onCurve223 3)) .curveMismatch = true := by decide

/-! ### The codec unit (section 2.5) -/

theorem test_secenc_compressed : succeeds (exec (.secenc 1 0 1 .compressed) (withG 4063 0))
    (fun t => holds t 1 .int 33 ∧ t.memRead 4063 4 = [0x02, 0x79, 0xbe, 0x66] ∧ t.readByte 4095 = 0x98) = true := by
  decide
theorem test_secenc_range : raises (exec (.secenc 3 0 1 .compressed) (withG 4064 0)) .bufRange = true := by decide
theorem test_secdec_odd : succeeds (exec (.secdec 1 1 2) (withBytes (0x03 :: be 32 1)))
    (fun t => t.getQ 1 = .coord .secp 1 0xBDE70DF51939B94C9C24979FA7DD04EBD9B3572DA7802290438AF2A681895441) = true := by
  decide +kernel
theorem test_secdec_identity : raises (exec (.secdec 1 1 2) (withBytes [0x00])) .cannotParse = true := by decide
theorem test_derenc_padding : succeeds (exec (.derenc 3 1 2 1) (withG 0x80 0x81))
    (fun t => holds t 3 .int 10 ∧
      t.memRead 0x80 10 = [0x30, 0x08, 0x02, 0x02, 0x00, 0x80, 0x02, 0x02, 0x00, 0x81]) = true := by decide
theorem test_derenc_range : raises (exec (.derenc 3 1 1 2) (withG 0 4089)) .bufRange = true := by decide
theorem test_derdec_empty_integers : succeeds (exec (.derdec 4 1 2 5) (withBytes [0x30, 0x04, 0x02, 0x00, 0x02, 0x00]))
    (fun t => holds t 4 .int 0 ∧ holds t 5 .int 0) = true := by decide
theorem test_derdec_capacity :
    raises (exec (.derdec 4 1 2 5) (withBytes ([0x30, 0x26, 0x02, 0x21, 0x01] ++ be 32 0 ++ [0x02, 0x01, 0x01])))
      .capacity = true := by decide

/-! ### The script unit (section 2.6) -/

theorem test_sparse_scenario_b : succeeds (exec (.sparse 5 1 2) (withBytes [0x76, 0x01, 0xFF, 0x87]))
    (fun t => holds t 5 .int 3) = true := by decide
theorem test_sparse_truncated : raises (exec (.sparse 5 1 2) (withBytes [0x01])) .cannotParse = true := by decide
/-- Script A is `01 ff`, script B is `76 87`. -/
theorem test_seval_two_scripts :
    succeeds (exec (.seval 5 3 6 6 6 3) ((withBytes [0x01, 0xFF, 0x76, 0x87]).setInt 6 2))
      (fun t => holds t 5 .int 1) = true := by decide
/-- 90_conflicts.md C5: OP_DUP on the empty stack fails. -/
theorem test_seval_scenario_b : succeeds (exec (.seval 5 1 2 3 3 3) (withBytes [0x76, 0x01, 0xFF, 0x87]))
    (fun t => holds t 5 .int 0) = true := by decide
theorem test_push_pushes : answers (exec (.push [0x07]) (evaluating [] [[0x09]]))
    (fun t => stackIs t [[0x07], [0x09]]) = true := by decide
theorem test_op_dup_copies : answers (exec .opDup (evaluating [] [[0x07]]))
    (fun t => stackIs t [[0x07], [0x07]]) = true := by decide
theorem test_op_dup_empty : answers (exec .opDup (evaluating [] [])) (fun t => verdictIs t 0) = true := by decide
theorem test_op_equal_unequal : answers (exec .opEqual (evaluating [] [[0xFE], [0xFF]]))
    (fun t => stackIs t [[]]) = true := by decide
theorem test_op_equal_short : answers (exec .opEqual (evaluating [] [[0xFF]])) (fun t => verdictIs t 0) = true := by
  decide
theorem test_op_equalverify_equal : answers (exec .opEqualverify (evaluating [] [[0xFF], [0xFF], []]))
    (fun t => stackIs t [[]]) = true := by decide
theorem test_op_equalverify_unequal : answers (exec .opEqualverify (evaluating [] [[0xFE], [0xFF]]))
    (fun t => verdictIs t 0) = true := by decide
theorem test_op_hash160_value : answers (exec .opHash160 (evaluating [] [[0xFF]]))
    (fun t => stackIs t [be 20 0x8296da5ca015c76181754a475b0677012cf63960]) = true := by decide +kernel
/-- The signature `30 01` is bad DER: evaluation fails. -/
theorem test_op_checksig_bad_der :
    answers (exec .opChecksig (evaluating [] [0x04 :: (be 32 Config.Gx ++ be 32 Config.Gy), [0x30, 0x01, 0x01]]))
      (fun t => verdictIs t 0) = true := by decide
/-- A signature (0, 0) parses and does not verify: a falsy element, no failure. -/
theorem test_op_checksig_zero :
    answers (exec .opChecksig (evaluating []
        [0x04 :: (be 32 Config.Gx ++ be 32 Config.Gy), [0x30, 0x04, 0x02, 0x00, 0x02, 0x00, 0x01]]))
      (fun t => stackIs t [[]]) = true := by decide

/-! ### The host port, hashes, reset -/

/-- 20_memory.md R110's example. -/
theorem test_buf_lanes : (State.reset.memWrite 0 [0x02, 0x79, 0xBE, 0x66]).readAt 0x1000 = 0x66BE7902 := by decide
/-- Eight word writes load a register, least significant word first (R33, R68). -/
theorem test_load_register :
    (let s := (State.reset.writeAt 0x104 0x11223344).writeAt 0x100 0x55667788
     (s.getR 0).val = 0x1122334455667788 ∧ s.readAt 0x010 = 0x00000001) := by decide
theorem test_fatal_keeps_error :
    (let s := State.fail State.reset .fieldMismatch
     s.readAt 0x008 = 0x0000200E ∧ (s.writeAt 0x008 0x1F).readAt 0x008 = 0x0000200C ∧
       (s.writeAt 0x00C 0).readAt 0x008 = 0x0000201E ∧ (s.writeAt 0x004 3).readAt 0x008 = 0) := by decide
theorem test_sha256_empty :
    sha256 [] = be 32 0xe3b0c44298fc1c149afbf4c8996fb92427ae41e4649b934ca495991b7852b855 := by decide +kernel
theorem test_hash160_empty : hash160 [] = be 20 0xb472a266d0bd89c13706a4132ccfb16f7c3b9fcb := by decide +kernel
theorem test_fetch_command :
    answers (step (State.reset.withFetchWord 32 0x00002701)) (fun t => t.readAt 0x00C = 0x00002701 ∧
      t.errcode = some .unwritten) = true := by decide
theorem test_fetch_script :
    answers (step (State.reset.withFetchWord 8 0x02)) (fun t => stackIs t [[0x00, 0x00]]) = true := by decide

/-! ### Witnesses: a state and operands for the hypotheses of every statement, clause by clause -/

/-- A pending NOP, the user curve of `onCurve223` with its registers, G in Q6, INF on the user curve in Q7, a key, FP
coordinates of G in R5 and R6, an FN zero in R7, a zero of the user field in R8, the integers 4096 in R9, 2^256 - 1 in R10,
0 in R11, 1 in R12 and 33 in R13; R0, R14 and R15 are EMPTY, R4 is INT 2. -/
def rich : State :=
  let s := ((onCurve223 2).setQ 6 (.coord .secp (toW Config.Gx) (toW Config.Gy))).setQ 7 (.inf .user)
  let s := (s.setR 5 (.field .p) (toW Config.Gx)).setR 6 (.field .p) (toW Config.Gy)
  let s := (s.setR 7 (.field .n) 0).setR 8 (.field .user) 0
  let s := (((s.setInt 9 4096).setInt 10 (2 ^ 256 - 1)).setInt 11 0).setInt 12 1
  let s := (s.setInt 13 33).memWrite 0 (0x02 :: be 32 Config.Gx)
  { s.accept 0 with kv := true, ksec := 1, kpubx := toW Config.Gx, kpuby := toW Config.Gy }

theorem witness_DecodeInvertsEncode :
    (Instr.sign 1 2 3).wellFormed = true ∧ (Instr.push [0xFF]).wellFormed = true ∧
      (Instr.push (List.replicate 75 0)).wellFormed = true := by decide

theorem witness_EncodeInvertsDecode :
    decode (.cmd 0xF4321051) = .ok (.seval 0 1 2 3 4 15) ∧ decode (.script [0x01, 0xFF]) = .ok (.push [0xFF]) := by
  decide

theorem witness_IllegalWordsRaiseIllegalCmd :
    (∀ w ∈ ([0x05, 0xFF, 0x100, 0x10000013, 0x30002111, 0x20000022, 0x00011131, 0x00333343] : List Word32),
      IllegalWord w) ∧
    (∀ w ∈ ([0, 0x20002111] : List Word32), ¬IllegalWord w) ∧
    (State.reset.accept 0x05).pending = some 0x05 ∧ (State.reset.accept 0x05).eval = none := by
  refine ⟨?_, ?_, rfl, rfl⟩ <;> simp [IllegalWord, reservedOpc, unusedNonzero, bitsOf]

theorem witness_ScriptFirstByteDecides :
    (1 ≤ (0x01 : Byte).toNat ∧ (0x01 : Byte).toNat ≤ [(0xFF : Byte)].length) ∧
    ((0x4B : Byte).toNat ≤ 0x4B ∧ (List.replicate 74 (0 : Byte)).length < (0x4B : Byte).toNat) ∧
    (0x4C : Byte).toNat = 0x4C ∧ (0x75 : Byte).toNat ≤ 0x75 ∧ 0xAD ≤ (0xAD : Byte).toNat ∧
    0xAD ≤ (0xFF : Byte).toNat := by decide

theorem witness_StepRunsDecodedInstruction :
    (rich.pending = some 0 ∧ rich.schedule = [] ∧ rich.eval = none ∧ decodeCmd 0 = .ok .nop) ∧
    (let s := { rich with schedule := [.engine, .powerOn] }
     s.pending = some 0 ∧ s.schedule = .engine :: [.powerOn] ∧ s.eval = none) ∧
    (let s := evaluating [.op .dup] []
     s.pending = some 0x51 ∧ s.schedule = [] ∧ s.eval = some { cmds := [.op .dup], pc := 0, stack := [], z := 0, rd := 9 } ∧
       [ScriptCmd.op .dup][0]? = some (.op .dup)) := by decide

theorem witness_StepTakesScheduledEvent :
    ({ rich with schedule := [.read 0x3FFF] }).schedule = .read 0x3FFF :: [] ∧
    ({ rich with schedule := [.write 3 7] }).schedule = .write 3 7 :: [] ∧
    ({ rich with schedule := [.powerOn] }).schedule = .powerOn :: [] ∧
    (({ State.reset with schedule := [.engine] }).schedule = .engine :: [] ∧ State.reset.pending = none ∧
      State.reset.schedule = []) := by decide

theorem witness_CmdWriteAcceptedOrDropped :
    (State.reset.busy = false ∧ State.reset.fatal = false) ∧ rich.busy = true ∧
      (State.fail State.reset .curveMismatch).fatal = true := by decide

theorem witness_HostWritesByOffset :
    rich.busy = true ∧ 4 * (atOffset 0x00C).toNat = 0x00C ∧ 4 * (atOffset 0x100).toNat = 0x100 ∧
    4 * (atOffset 0x2FC).toNat = 0x2FC ∧ 4 * (atOffset 0x1000).toNat = 0x1000 ∧ 4 * (atOffset 0x1FFC).toNat = 0x1FFC ∧
    4 * (atOffset 0x000).toNat = 0x000 ∧ 4 * (atOffset 0x010).toNat = 0x010 ∧ 4 * (atOffset 0x0FC).toNat = 0x0FC ∧
    4 * (atOffset 0x300).toNat = 0x300 ∧ 4 * (atOffset 0xFFC).toNat = 0xFFC ∧ 4 * (atOffset 0xFFFC).toNat = 0xFFFC := by
  decide

theorem witness_RegisterWindowWrite : 7 < 8 ∧ (withG 1 2).busy = false ∧ ((withG 1 2).getR 15).tag = .empty := by decide

theorem witness_WindowReads :
    7 < 8 ∧ (rich.getR 15).tag = .empty ∧ (rich.getR 1).tag ≠ .empty ∧ rich.getQ 0 = .coord .user 192 105 ∧
      rich.getQ 15 = .empty ∧ rich.getQ 7 = .inf .user ∧
      (∀ off ∈ [0x024, 0x03C, 0x0E0, 0x0FC, 0x300, 0x3FC, 0xC00, 0xFFC, 0x2000, 0xFFFC],
        4 * (atOffset off).toNat = off) := by decide

theorem witness_BufWindowLanes : 1023 < 1024 ∧ State.reset.busy = false := by decide

theorem witness_StatusWordAndWrites :
    (0x4 : Word32).getLsbD 2 = true ∧ State.reset.fatal = false ∧ (0x2 : Word32).getLsbD 2 = false ∧
      (State.fail State.reset .fieldMismatch).fatal = true := by decide

theorem witness_CtrlAndIrq : (0x3 : Word32).getLsbD 1 = true ∧ (0x1 : Word32).getLsbD 1 = false := by decide

theorem witness_ResetValues : ∃ t : State, t = rich.softReset := ⟨_, rfl⟩

theorem witness_SecretIsNotObservable :
    ∀ w rd ra rb, rich.pending = some w → decodeCmd w ≠ .ok (.sign rd ra rb) := by
  rintro w rd ra rb h
  obtain rfl : (0 : Word32) = w := Option.some.inj (show some 0 = some w from h)
  intro h
  cases h

theorem witness_EveryCommandCompletesPrecisely : rich.pending = some 0 ∧ rich.eval = none := by decide

theorem witness_FatalIsSticky :
    (State.fail State.reset .fieldMismatch).StatusOk ∧ (State.fail State.reset .fieldMismatch).fatal = true ∧
      (State.fail State.reset .fieldMismatch).resetNext = false ∧
      ∃ t, step (State.fail State.reset .fieldMismatch) = .next t :=
  ⟨by decide, by decide, by decide, _, rfl⟩

theorem witness_StepKeepsBufCanonical : rich.BufOk ∧ ∃ t, step rich = .next t := ⟨by decide +kernel, _, rfl⟩
theorem witness_StepKeepsStatusConsistent : rich.StatusOk ∧ ∃ t, step rich = .next t := ⟨by decide, _, rfl⟩
theorem witness_StepKeepsValuesInRange : rich.ValuesOk ∧ ∃ t, step rich = .next t := ⟨by decide +kernel, _, rfl⟩

theorem witness_OnlyKloadWritesKey :
    rich.resetNext = false ∧ (∀ w rd ra, rich.pending = some w → decodeCmd w ≠ .ok (.kload rd ra)) ∧
      ∃ t, step rich = .next t := by
  refine ⟨by decide, ?_, _, rfl⟩
  rintro w rd ra h
  obtain rfl : (0 : Word32) = w := Option.some.inj (show some 0 = some w from h)
  intro h
  cases h

theorem witness_FrameOneRegister :
    oneRDest (.fadd 1 1 2) = some 1 ∧ ∃ t, exec (.fadd 1 1 2) rich = .next t := ⟨rfl, _, rfl⟩
theorem witness_FrameTwoRegisters :
    (∃ t, exec (.sign 1 4 2) rich = .next t) ∧ ∃ t, exec (.derdec 1 11 4 2) rich = .next t := ⟨⟨_, rfl⟩, _, rfl⟩
theorem witness_FrameOnePoint :
    oneQDest (.padd 0 0 1) = some 0 ∧ (∃ t, exec (.padd 0 0 1) rich = .next t) ∧
      ∃ t, exec (.kload 0 12) rich = .next t := ⟨rfl, ⟨_, rfl⟩, _, rfl⟩
theorem witness_FrameNopMsetCset :
    (∃ t, exec .nop rich = .next t) ∧ (∃ t, exec (.mset 13) rich = .next t) ∧ (∃ t, exec (.cset 8 1) rich = .next t) ∧
      (rich.getR 5).tag ≠ .field .user ∧ rich.getQ 6 ≠ .inf .user ∧ (∀ x y, rich.getQ 6 ≠ .coord .user x y) := by
  refine ⟨⟨_, rfl⟩, ⟨_, rfl⟩, ⟨_, rfl⟩, by decide, by decide, fun x y h => ?_⟩
  have : rich.getQ 6 = .coord .secp (toW Config.Gx) (toW Config.Gy) := by decide
  rw [this] at h
  cases h
theorem witness_FrameEncoders :
    (∃ t, exec (.secenc 1 6 11 .compressed) rich = .next t) ∧ (∃ t, exec (.derenc 1 11 12 11) rich = .next t) ∧
      rich.qpt 6 = .ok (genG, .secp) ∧ rich.rint 11 = .ok 0 ∧ rich.rint 12 = .ok 1 ∧
      rich.qpt 15 = .error .unwritten ∧ rich.rint 15 = .error .unwritten :=
  ⟨⟨_, rfl⟩, ⟨_, rfl⟩, by decide, by decide, by decide, by decide, by decide⟩
theorem witness_FrameScriptCommands :
    isScript .opDup = true ∧ (∃ ev, (evaluating [] []).eval = some ev) ∧
      ∃ t, exec .opDup (evaluating [] []) = .next t := ⟨rfl, ⟨_, rfl⟩, _, rfl⟩

theorem witness_OperandReads :
    (rich.getR 0).tag = .empty ∧ (rich.getR 15).tag = .empty ∧ (rich.getR 4).tag = .int ∧
      (rich.getR 5).tag = .field .p ∧ rich.getQ 15 = .empty ∧ rich.getQ 7 = .inf .user ∧
      rich.getQ 0 = .coord .user 192 105 := by decide
theorem witness_MoveAndClearResults :
    (rich.getR 1).tag ≠ .empty ∧ (rich.getR 0).tag = .empty ∧ rich.getQ 7 ≠ .empty ∧ rich.getQ 15 = .empty := by decide
theorem witness_FieldSetupResults :
    rich.rint 4 = .ok 2 ∧ 1 < 2 ∧ rich.umv = true ∧ 2 < rich.fieldOf .user ∧ rich.rint 10 = .ok (2 ^ 256 - 1) := by decide
theorem witness_FieldArithmeticResults :
    rich.rfield 1 = .ok (192, .user) ∧ rich.rfield 2 = .ok (105, .user) ∧ rich.rfield 8 = .ok (0, .user) ∧
      1 < rich.fieldOf .user ∧ rich.rint 11 = .ok 0 ∧ rich.rint 10 = .ok (2 ^ 256 - 1) := by decide
theorem witness_FieldUnitErrors :
    rich.rint 15 = .error .unwritten ∧ rich.rint 12 = .ok 1 ∧ State.reset.umv = false ∧
      (withG 1 2).rint 1 = .ok 1 ∧ rich.fieldOf .user ≤ 4096 ∧ rich.rint 9 = .ok 4096 ∧
      rich.rfield 4 = .error .tag ∧ rich.rfield 1 = .ok (192, .user) ∧ rich.rfield 5 = .ok (Config.Gx, .p) ∧
      rich.fieldOf .user ≠ rich.fieldOf .p := by decide
theorem witness_CurveConstructionResults :
    rich.rfield 1 = .ok (192, .user) ∧ rich.rfield 2 = .ok (105, .user) ∧ rich.umv = true ∧ rich.ucv = true ∧
      rich.fieldOf .user = rich.um.toNat ∧ rich.fieldOf .user = (rich.curveOf .user).m ∧
      105 * 105 % 223 = (192 * 192 * 192 + 0 * 192 + 7) % 223 ∧ rich.curveOf .user = { m := 223, a := 0, b := 7 } ∧
      (CurveSel.secp = .user → State.reset.ucv = true) := by
  decide
theorem witness_PointCommandResults :
    rich.qpt 0 = .ok (.aff 192 105, .user) ∧ rich.qpt 1 = .ok (.aff 17 56, .user) ∧ rich.rint 11 = .ok 0 ∧
      padd (.aff 192 105) (.aff 17 56) (rich.curveOf .user) = .ok (.aff 170 142) ∧
      pmul 0 (.aff 192 105) (rich.curveOf .user) = .ok .inf ∧ 0 < 1 ∧ 0 < 2 := by decide
/-- Modulus 15 (R265): the law raises, and so does the scalar multiple that meets the case. -/
theorem witness_PointCommandResults_raise :
    (let s := ((inField 15 0 4 0 3).setUserCurve 0 4).setQ 0 (.coord .user 0 2) |>.setQ 1 (.coord .user 0 7)
     s.qpt 0 = .ok (.aff 0 2, .user) ∧ s.qpt 1 = .ok (.aff 0 7, .user) ∧
       padd (.aff 0 2) (.aff 0 7) (s.curveOf .user) = .error .divisionByZero) := by decide
theorem witness_CurveUnitErrors :
    rich.rfield 4 = .error .tag ∧ rich.rfield 1 = .ok (192, .user) ∧ rich.rfield 3 = .ok (119, .user) ∧
      State.reset.umv = false ∧ State.reset.ucv = false ∧ rich.fieldOf .p ≠ rich.um.toNat ∧ rich.ucv = true ∧
      119 * 119 % 223 ≠ (192 * 192 * 192 + 0 * 192 + 7) % 223 ∧ rich.qpt 15 = .error .unwritten ∧
      rich.qpt 6 = .ok (genG, .secp) ∧ rich.qpt 7 = .ok (.inf, .user) ∧ rich.curveOf .secp ≠ rich.curveOf .user ∧
      rich.rint 15 = .error .unwritten ∧ rich.rint 11 = .ok 0 ∧ rich.umv = true ∧
      (withG 1 2).umv = false ∧ ((withG 1 2).setR 5 (.field .p) 1).rfield 5 = .ok (1, .p) := by decide
theorem witness_PointAdditionCases :
    (1 < 223 ∧ 192 < 223 ∧ 105 < 223 ∧ (105 + 118) % 223 = 0) ∧ (105 + 105) % 223 ≠ 0 ∧ 192 ≠ 17 ∧
      (2 ≠ 7 ∧ (2 + 7) % 15 ≠ 0) := by decide
theorem witness_PrimeCurveIsClosed_step :
    State.reset.ValuesOk ∧ State.reset.PointsOnCurve ∧ ∃ t, step State.reset = .next t := by
  refine ⟨by decide +kernel, fun i p c h => ?_, _, rfl⟩
  have hq : ∀ i, State.reset.qpt i = .error .unwritten := by decide
  rw [hq] at h
  cases h
theorem witness_PrimeCurveIsClosed :
    Nat.Prime (rich.curveOf .user).m ∧ (rich.curveOf .user).a < (rich.curveOf .user).m ∧
      (rich.curveOf .user).b < (rich.curveOf .user).m ∧ rich.qpt 0 = .ok (.aff 192 105, .user) ∧
      rich.qpt 1 = .ok (.aff 17 56, .user) ∧ (Pt.aff 192 105).isOn (rich.curveOf .user) ∧
      (Pt.aff 17 56).isOn (rich.curveOf .user) ∧ rich.rint 10 = .ok (2 ^ 256 - 1) := by
  have h : (rich.curveOf .user).m = 223 := by decide
  refine ⟨by rw [h]; norm_num, by decide, by decide, by decide, by decide, ?_, ?_, by decide⟩
  · exact ⟨by decide, by decide, by decide⟩
  · exact ⟨by decide, by decide, by decide⟩
theorem witness_GroupProperties : 105 < (rich.curveOf .user).m ∧ (Pt.aff Config.Gx Config.Gy).isOn secp :=
  ⟨by decide, by decide, by decide, by decide⟩
theorem witness_PrimeFieldLaws : Nat.Prime 31 ∧ 30 < 31 ∧ (17 : Nat) ≠ 0 ∧ 2 < 31 := by norm_num
theorem witness_EcdsaResults :
    (withG 1 (Config.N - 1)).rint 1 = .ok 1 ∧ (withG 1 (Config.N - 1)).rint 2 = .ok (Config.N - 1) ∧
      Config.N - 1 < Config.N ∧ (1 : RegIdx) ≠ 2 ∧ rich.rint 4 = .ok 2 ∧ rich.kv = true ∧
      rich.qpt 6 = .ok (genG, .secp) ∧ rich.curveOf .secp = secp ∧ rich.rint 11 = .ok 0 := by decide
/-- Verification with digest 1 and halves 1 and 1: under the key G the point is G + G, under -G it is INF. -/
theorem witness_EcdsaResults_verify :
    (1 ≤ 1 ∧ 1 < Config.N ∧ Config.N - 1 < Config.N) ∧
      pmul (1 * 1 % Config.N) genG secp = .ok genG ∧ padd genG genG secp = pmul 2 genG secp ∧
      pmul 1 (.aff Config.Gx (Config.P - Config.Gy)) secp = .ok (.aff Config.Gx (Config.P - Config.Gy)) ∧
      padd genG (.aff Config.Gx (Config.P - Config.Gy)) secp = .ok .inf := by decide +kernel
theorem witness_EcdsaErrors :
    rich.rint 15 = .error .unwritten ∧ (withG 0 Config.N).rint 1 = .ok 0 ∧
      (withG 0 Config.N).rint 2 = .ok Config.N ∧ (withG 0 0).kv = false ∧ rich.qpt 15 = .error .unwritten ∧
      rich.qpt 0 = .ok (.aff 192 105, .user) ∧ rich.curveOf .user ≠ secp ∧ rich.rint 11 = .ok 0 := by decide
theorem witness_SignatureLimits :
    signWith 2 5 1 = some (Config.Gx,
      min ((2 * Config.Gx + 5) % Config.N) (Config.N - (2 * Config.Gx + 5) % Config.N)) := by decide +kernel
theorem witness_DigestEntersModuloN :
    (let s := { withG 5 (Config.N + 5) with kv := true, ksec := 7 }
     s.kv = true ∧ s.rint 1 = .ok 5 ∧ s.rint 2 = .ok (Config.N + 5) ∧ (3 : RegIdx) ≠ 4 ∧
       5 % Config.N = (Config.N + 5) % Config.N) := by decide
theorem witness_SignaturesVerify :
    1 ≤ 1 ∧ 1 < Config.N ∧ pmul 1 genG secp = .ok genG ∧ signWith 1 5 1 = some (Config.Gx,
      min ((Config.Gx + 5) % Config.N) (Config.N - (Config.Gx + 5) % Config.N)) := by decide +kernel
theorem witness_NoScalarBelowOrderGivesInfinity : 1 ≤ Config.N - 1 ∧ Config.N - 1 < Config.N := by decide
theorem witness_EncoderResults :
    rich.qpt 6 = .ok (genG, .secp) ∧ rich.qpt 3 = .ok (.inf, .secp) ∧ rich.rint 11 = .ok 0 ∧
      rich.curveOf .secp = secp ∧ 0 + (secEnc genG .uncompressed).length ≤ 4096 ∧
      4095 + (secEnc .inf .compressed).length ≤ 4096 ∧ 0 + (derEnc 0 0).length ≤ 4096 := by decide
theorem witness_DecoderResults :
    rich.rint 11 = .ok 0 ∧ rich.rint 13 = .ok 33 ∧ 0 + 33 ≤ 4096 ∧
      secDec (rich.memRead 0 33) = .ok (Config.Gx, Config.Gy) ∧ (1 : RegIdx) ≠ 2 ∧
      derDec ((withBytes [0x30, 0x04, 0x02, 0x00, 0x02, 0x00]).memRead 0 6) = .ok (0, 0) ∧
      (withBytes [0x30, 0x04, 0x02, 0x00, 0x02, 0x00]).rint 2 = .ok 6 ∧
      parseScript ((withBytes [0x01, 0xFF]).memRead 0 2) = .ok [.push [0xFF]] ∧
      (withBytes [0x01, 0xFF]).rint 2 = .ok 2 ∧ parseScript (rich.memRead 4096 0) = .ok [] ∧ 4096 + 0 ≤ 4096 := by
  decide +kernel
/-- The two parsers: lengths at and beside 32 and 64, the x coordinates 1 (on the curve), 5 (on no point) and P, and a DER
string of two empty integers. -/
theorem witness_CodecErrors_parsers :
    ((0x05 : Byte) ≠ 0x02 ∧ (0x05 : Byte) ≠ 0x03 ∧ (0x05 : Byte) ≠ 0x04) ∧
      ([] : Bytes).length ≠ 32 ∧ (be 32 0).length ≠ 64 ∧ (be 32 1 ++ be 32 2).length = 64 ∧
      intBe ((be 32 1 ++ be 32 2).take 32) = 1 ∧ intBe ((be 32 1 ++ be 32 2).drop 32) = 2 ∧ (be 32 1).length = 32 ∧
      intBe (be 32 1) = 1 ∧ 1 < Config.P ∧ intBe (be 32 Config.P) = Config.P ∧ Config.P ≤ Config.P ∧
      secDec (0x02 :: be 32 5) = .error .notOnCurve ∧
      derDec [0x30, 0x04, 0x02, 0x00, 0x02, 0x00] = .ok (0, 0) ∧
      ([] : Bytes).length + ([] : Bytes).length + 4 < 256 ∧
      derDec [0x30, 0x04, 0x02, 0x00, 0x02, 0x00, 0x00] = .error .cannotParse := by decide +kernel
theorem witness_CodecErrors :
    rich.rint 15 = .error .unwritten ∧ rich.rint 10 = .ok (2 ^ 256 - 1) ∧ rich.rint 12 = .ok 1 ∧
      4096 < (2 ^ 256 - 1) + 1 ∧ rich.rint 9 = .ok 4096 ∧ 4096 < 4096 + 1 ∧ rich.rint 11 = .ok 0 ∧
      secDec (rich.memRead 0 1) = .error .cannotParse ∧ parseScript (rich.memRead 0 1) = .error .cannotParse ∧
      derDec (rich.memRead 0 1) = .error .cannotParse ∧
      derDec ([0x30, 0x26, 0x02, 0x21, 0x01] ++ be 32 0 ++ [0x02, 0x01, 0x01]) = .ok (2 ^ 256, 1) ∧
      rich.qpt 15 = .error .unwritten ∧ rich.qpt 0 = .ok (.aff 192 105, .user) ∧ rich.curveOf .user ≠ secp ∧
      rich.qpt 6 = .ok (genG, .secp) ∧ 4096 < 4096 + (secEnc genG .compressed).length ∧
      4096 < 4096 + (derEnc 0 0).length := by decide +kernel
theorem witness_SecRoundTrip : (Pt.aff Config.Gx Config.Gy).isOn secp := ⟨by decide, by decide, by decide⟩
theorem witness_DerRoundTrip : 0 < 2 ^ 256 ∧ 2 ^ 256 - 1 < 2 ^ 256 := by decide
theorem witness_EncodingBytesAndLengths :
    Config.N - 1 < Config.N ∧ (Config.N - 1) / 2 ≤ (Config.N - 1) / 2 ∧ 0 < 2 ^ 256 ∧ 2 ^ 256 - 1 < 2 ^ 256 := by decide
theorem witness_SevalOutcomes :
    (let s := (withBytes [0x01, 0xFF, 0x76, 0x87]).setInt 6 2
     s.rint 3 = .ok 0 ∧ s.rint 6 = .ok 2 ∧ s.rint 15 = .error .unwritten ∧ 0 + 2 ≤ 4096 ∧ 2 + 2 ≤ 4096 ∧
       parseScript (s.memRead 0 2) = .ok [.push [0xFF]] ∧
       parseScript (s.memRead 2 2) = .ok [.op .dup, .op .equal] ∧
       parseScript (s.memRead 0 1) = .error .cannotParse) ∧
    4096 < 4096 + 1 := by decide
theorem witness_ScriptCommandResults :
    (∃ ev, (evaluating [] [[0x07], [0x07]]).eval = some ev ∧ ev.stack = [0x07] :: [0x07] :: []) ∧
    (∃ ev, (evaluating [] []).eval = some ev ∧ ev.stack = [] ∧ ev.stack.length < 2) ∧
    (∃ ev pk sig, (evaluating []
        [0x04 :: (be 32 Config.Gx ++ be 32 Config.Gy), [0x30, 0x04, 0x02, 0x00, 0x02, 0x00, 0x01]]).eval = some ev ∧
      ev.stack = pk :: sig :: [] ∧ sig ≠ [] ∧ sig.getLast? = some 0x01 ∧
      secDec pk = .ok (Config.Gx, Config.Gy) ∧ derDec sig.dropLast = .ok (0, 0)) ∧
    (∃ ev, (evaluating [] [[0x00], []]).eval = some ev ∧ ev.stack = [0x00] :: [] :: []) ∧
    isScript .opChecksig = true :=
  ⟨⟨_, rfl, rfl⟩, ⟨_, rfl, rfl, by decide⟩, ⟨_, _, _, rfl, rfl, by decide, by decide, by decide, by decide⟩, ⟨_, rfl, rfl⟩,
    rfl⟩
theorem witness_ScriptRoundTrip :
    (∀ c ∈ [ScriptCmd.push (List.replicate 75 0xAA), .push [0x00], .op .checksig], c.wellFormed = true) ∧
      parseScript [0x76, 0x01, 0xFF, 0x87] = .ok [.op .dup, .push [0xFF], .op .equal] := by decide
theorem witness_ScriptProperties : ([0x00] : Bytes) ≠ [] ∧ ([0xFF] : Bytes) ≠ [0xFE] := by decide
theorem witness_ScriptStackIsBounded :
    ([0x01, 0xFF] : Bytes).length ≤ 4096 ∧ parseScript [0x01, 0xFF] = .ok [.push [0xFF]] ∧
      parseScript [0x76] = .ok [.op .dup] ∧
      [ScriptCmd.push [0xFF], .op .dup] <+: [ScriptCmd.push [0xFF]] ++ [ScriptCmd.op .dup] ∧
      runStack .require01 0 [.push [0xFF], .op .dup] [] = some [[0xFF], [0xFF]] :=
  ⟨by decide, by decide, by decide, List.prefix_refl _, by decide⟩
theorem witness_SevalEqualsItsSmallSteps :
    (let s := State.accept ((withBytes [0x01, 0xFF, 0x76, 0x87]).setInt 6 2) 0x36663351
     s.pending = some 0x36663351 ∧ s.rint 3 = .ok 0 ∧ s.rint 6 = .ok 2 ∧ 0 + 2 ≤ 4096 ∧ 2 + 2 ≤ 4096 ∧
       parseScript (s.memRead 0 2) = .ok [.push [0xFF]] ∧
       parseScript (s.memRead 2 2) = .ok [.op .dup, .op .equal]) := by decide

/-! ### SIGN on scenario A: last, as its evaluation takes longest -/

/-- The first nonce candidate and the signature of scenario A (95_test_vectors.md section 1). -/
theorem test_nonce_scenario_a : nonceCandidate (nonceAt (nonceInit 12345 99999) 0) =
    0xCCC6587AB3821CA7A0E77E6799C3C7035871AF0E17AD3C5E05808033440E8460 := by decide +kernel
theorem test_sign_scenario_a :
    signWith 12345 99999 0xCCC6587AB3821CA7A0E77E6799C3C7035871AF0E17AD3C5E05808033440E8460 =
      some (0xE58643779C8BBCD96FFF738617B6EE9ADCE1C58009F8F97DC7A3D2313C491A75,
        0x16FE4582DD5754C85BCCED7E0725093560DD41AFC22896FFD4F2B1EFA78C5CAD) := by decide +kernel
/-- A turn of SIGN's loop with nonce 1, and scenario A's first candidate, accepted. -/
theorem witness_EcdsaResults_sign :
    (1 ≤ 1 ∧ 1 < Config.N) ∧ pmul 1 genG secp = .ok (.aff Config.Gx Config.Gy) ∧
      signWith 12345 99999 (nonceCandidate (nonceAt (nonceInit 12345 99999) 0)) =
        some (0xE58643779C8BBCD96FFF738617B6EE9ADCE1C58009F8F97DC7A3D2313C491A75,
          0x16FE4582DD5754C85BCCED7E0725093560DD41AFC22896FFD4F2B1EFA78C5CAD) :=
  ⟨by decide, small_multiples_of_G.1, (congrArg (signWith 12345 99999) test_nonce_scenario_a).trans test_sign_scenario_a⟩

end Sys2Proof.Tests
end

section
/-!
The frames of the commands (O25, O26, O27, O29): each command is the completion of one named update of the state, or the
state before it with an error reported; the frame of each update is proved once.
-/

namespace Sys2Proof.Machine

variable {s t : State} {rd : RegIdx}

/-! ### The frame of a command that writes registers -/

/-- The command writes at most the R registers `rs`, the Q registers `qs` and STATUS. -/
def CommandFrame (rs qs : List RegIdx) (s t : State) : Prop :=
  OnlyRegs rs s t ∧ OnlyPoints qs s t ∧ SameBytes s t ∧ SameUser s t ∧ SameKey s t ∧ SameControl s t ∧ Completed s t

theorem commandFrame_fail (rs qs : List RegIdx) (s : State) (e : Err) : CommandFrame rs qs s (s.fail e) :=
  ⟨fun _ _ => rfl, fun _ _ => rfl, fun _ => rfl, ⟨rfl, rfl, rfl, rfl, rfl⟩, ⟨rfl, rfl, rfl, rfl⟩,
    ⟨rfl, rfl, rfl, rfl, rfl, rfl, rfl⟩, rfl, rfl, rfl, .inr ⟨e, rfl, rfl, rfl⟩⟩

/-- Completing with other register files: the frame is that of the two files. -/
theorem commandFrame_finish_registers {rs qs : List RegIdx} {s : State} {r : Vector RReg 16} {q : Vector QReg 16}
    (hr : OnlyRegs rs s { s with r := r, q := q }) (hq : OnlyPoints qs s { s with r := r, q := q }) :
    CommandFrame rs qs s (State.finish { s with r := r, q := q }) :=
  ⟨hr, hq, fun _ => rfl, ⟨rfl, rfl, rfl, rfl, rfl⟩, ⟨rfl, rfl, rfl, rfl⟩, ⟨rfl, rfl, rfl, rfl, rfl, rfl, rfl⟩,
    rfl, rfl, rfl, .inl ⟨rfl, rfl, rfl⟩⟩

theorem onlyRegs_setR (s : State) (rd : RegIdx) (tag : Tag) (v : W256) : OnlyRegs [rd] s (s.setR rd tag v) :=
  fun _ hi => s.getR_setR_of_ne tag v (Ne.symm (List.mem_singleton.not.1 hi))

theorem onlyRegs_setInt_setInt (s : State) (rd rc : RegIdx) (m n : Nat) :
    OnlyRegs [rd, rc] s ((s.setInt rd m).setInt rc n) := by
  intro i hi
  obtain ⟨hd, hc⟩ : i ≠ rd ∧ i ≠ rc := by simpa using hi
  rw [State.getR_setInt, if_neg hc.symm, State.getR_setInt, if_neg hd.symm]

theorem onlyPoints_setQ (s : State) (rd : RegIdx) (x : QReg) : OnlyPoints [rd] s (s.setQ rd x) :=
  fun _ hi => s.getQ_setQ_of_ne x (Ne.symm (List.mem_singleton.not.1 hi))

theorem commandFrame_setR (s : State) (rd : RegIdx) (tag : Tag) (v : W256) :
    CommandFrame [rd] [] s (s.setR rd tag v).finish :=
  commandFrame_finish_registers (onlyRegs_setR s rd tag v) fun _ _ => rfl

theorem commandFrame_setInt_setInt (s : State) (rd rc : RegIdx) (m n : Nat) :
    CommandFrame [rd, rc] [] s ((s.setInt rd m).setInt rc n).finish :=
  commandFrame_finish_registers (onlyRegs_setInt_setInt s rd rc m n) fun _ _ => rfl

theorem commandFrame_setQ (s : State) (rd : RegIdx) (x : QReg) : CommandFrame [] [rd] s (s.setQ rd x).finish :=
  commandFrame_finish_registers (fun _ _ => rfl) (onlyPoints_setQ s rd x)

/-! ### One R destination -/

/-- All that a command with one R destination can answer: that register written, or an error reported (R146, R502). -/
theorem exec_oneRDest_cases {i : Instr} (hd : oneRDest i = some rd) (h : exec i s = .next t) :
    (∃ tag v, t = (s.setR rd tag v).finish) ∨ ∃ e, t = s.fail e := by
  cases i with
  | rmov => cases hd; exact (execRmov_cases h).imp_left fun ⟨_, ht⟩ => ⟨_, _, ht⟩
  | rclr => cases hd; exact .inl ⟨_, _, execRclr_cases h⟩
  | fnew => cases hd; exact (execFnew_cases h).imp_left fun ⟨_, _, _, _, ht⟩ => ⟨_, _, ht⟩
  | fred => cases hd; exact (execFred_cases h).imp_left fun ⟨_, _, _, ht⟩ => ⟨_, _, ht⟩
  | fadd => cases hd; exact (execFadd_cases h).imp_left fun ⟨_, _, ht⟩ => ⟨_, _, ht⟩
  | fsub => cases hd; exact (execFsub_cases h).imp_left fun ⟨_, _, ht⟩ => ⟨_, _, ht⟩
  | fmul => cases hd; exact (execFmul_cases h).imp_left fun ⟨_, _, ht⟩ => ⟨_, _, ht⟩
  | fdiv => cases hd; exact (execFdiv_cases h).imp_left fun ⟨_, _, _, _, ht⟩ => ⟨_, _, ht⟩
  | finv => cases hd; exact (execFinv_cases h).imp_left fun ⟨_, _, _, _, _, ht⟩ => ⟨_, _, ht⟩
  | fpow => cases hd; exact (execFpow_cases h).imp_left fun ⟨_, _, _, _, _, ht⟩ => ⟨_, _, ht⟩
  | verify =>
    cases hd; exact (execVerify_cases h).imp_left fun ⟨_, _, _, _, _, _, _, _, _, _, ht⟩ => ⟨_, _, ht⟩
  | sparse => cases hd; exact (execSparse_cases h).imp_left fun ⟨_, _, _, _, _, _, _, ht⟩ => ⟨_, _, ht⟩
  | seval =>
    cases hd
    exact (execSeval_cases h).imp_left fun ⟨_, _, _, _, _, _, _, _, _, _, _, _, _, _, _, _, ht⟩ => ⟨_, _, ht⟩
  | nop | qmov | qclr | mset | cset | pnew | pinf | padd | pdbl | pmul | kload | sign | secenc | secdec | derenc
  | derdec | push | opDup | opEqual | opEqualverify | opHash160 | opChecksig => cases hd

/-- Settles O25: each of these commands writes its destination and completes, or reports an error. -/
theorem frameOneRegister : Obligations.FrameOneRegister := by
  intro i rd s t hd h
  obtain ⟨tag, v, rfl⟩ | ⟨e, rfl⟩ := exec_oneRDest_cases hd h
  · exact commandFrame_setR s rd tag v
  · exact commandFrame_fail _ _ s e

/-! ### Two R destinations -/

/-- Settles O26: both commands write two integers in a row, or report an error. -/
theorem frameTwoRegisters : Obligations.FrameTwoRegisters := by
  refine fun rd ra rb rc s t => ⟨fun h => ?sign, fun h => ?derdec⟩
  case sign =>
    obtain ⟨z, -, -, -, rfl⟩ | ⟨e, rfl⟩ := execSign_cases h
    · exact commandFrame_setInt_setInt s rd rb _ _
    · exact commandFrame_fail _ _ s e
  case derdec =>
    obtain ⟨addr, n, r, x, -, -, -, -, -, -, -, rfl⟩ | ⟨e, rfl⟩ := execDerdec_cases h
    · exact commandFrame_setInt_setInt s rd rc _ _
    · exact commandFrame_fail _ _ s e

/-! ### One Q destination, KLOAD -/

/-- All that a command with one Q destination can answer: that register written, or an error reported (R146, R502). -/
theorem exec_oneQDest_cases {i : Instr} (hd : oneQDest i = some rd) (h : exec i s = .next t) :
    (∃ x, t = (s.setQ rd x).finish) ∨ ∃ e, t = s.fail e := by
  cases i with
  | qmov => cases hd; exact (execQmov_cases h).imp_left fun ⟨_, ht⟩ => ⟨_, ht⟩
  | qclr => cases hd; exact .inl ⟨_, execQclr_cases h⟩
  | pnew => cases hd; exact (execPnew_cases h).imp_left fun ⟨_, _, _, _, _, _, _, _, _, _, ht⟩ => ⟨_, ht⟩
  | pinf => cases hd; exact (execPinf_cases h).imp_left fun ⟨_, ht⟩ => ⟨_, ht⟩
  | padd => cases hd; exact (execPadd_cases h).imp_left fun ⟨_, _, _, _, _, _, _, _, _, ht⟩ => ⟨_, ht⟩
  | pdbl => cases hd; exact (execPdbl_cases h).imp_left fun ⟨_, _, _, _, _, ht⟩ => ⟨_, ht⟩
  | pmul => cases hd; exact (execPmul_cases h).imp_left fun ⟨_, _, _, _, _, _, _, ht⟩ => ⟨_, ht⟩
  | secdec => cases hd; exact (execSecdec_cases h).imp_left fun ⟨_, _, _, _, _, _, _, _, ht⟩ => ⟨_, ht⟩
  | nop | rmov | rclr | mset | fnew | fred | fadd | fsub | fmul | fdiv | finv | fpow | cset | kload | sign | verify
  | secenc | derenc | derdec | sparse | seval | push | opDup | opEqual | opEqualverify | opHash160 | opChecksig =>
    cases hd

/-- Settles O27. KLOAD's completion is that of a Q write on a state that differs in the key store alone. -/
theorem frameOnePoint : Obligations.FrameOnePoint := by
  refine ⟨fun i rd s t hd h => ?_, fun rd ra s t h => ?kload⟩
  · obtain ⟨x, rfl⟩ | ⟨e, rfl⟩ := exec_oneQDest_cases hd h
    · exact commandFrame_setQ s rd x
    · exact commandFrame_fail _ _ s e
  case kload =>
    obtain ⟨k, p, -, -, -, -, rfl⟩ | ⟨e, rfl⟩ := execKload_cases h
    · obtain ⟨hr, hq, hb, hu, -, hc, hd⟩ := commandFrame_setQ
        { s with ksec := toW k, kpubx := toW p.xOr0, kpuby := toW p.yOr0, kv := true } rd (pointReg .secp p)
      exact ⟨hr, hq, hb, hu, hc, hd⟩
    · obtain ⟨hr, hq, hb, hu, -, hc, hd⟩ := commandFrame_fail [] [rd] s e
      exact ⟨hr, hq, hb, hu, hc, hd⟩

/-! ### The encoders -/

/-- The command writes at most R[rd], bytes of BUF and STATUS. -/
def EncoderFrame (rd : RegIdx) (s t : State) : Prop :=
  OnlyRegs [rd] s t ∧ OnlyPoints [] s t ∧ SameUser s t ∧ SameKey s t ∧ SameControl s t ∧ Completed s t

theorem sameBytes_fail (s : State) (e : Err) : SameBytes s (s.fail e) := fun _ => rfl

theorem encoderFrame_fail (rd : RegIdx) (s : State) (e : Err) : EncoderFrame rd s (s.fail e) := by
  obtain ⟨hr, hq, -, hu, hk, hc, hd⟩ := commandFrame_fail [rd] [] s e
  exact ⟨hr, hq, hu, hk, hc, hd⟩

theorem encoderFrame_putBytes (s : State) (rd : RegIdx) (addr : Nat) (bs : Bytes) :
    EncoderFrame rd s (s.putBytes rd addr bs).finish := by
  refine ⟨fun i hi => ?_, fun i _ => ?_, ?_, ?_, ?_, ?_⟩
  · rw [State.getR_finish, State.getR_putBytes, if_neg (Ne.symm (List.mem_singleton.not.1 hi))]
  · rw [State.getQ_finish, State.getQ_putBytes]
  · simp [SameUser]
  · simp [SameKey]
  · simp [SameControl]
  · simp [Completed]

/-- The bytes of a result that fits in BUF are the only ones that change (R353, R363). -/
theorem sameBytesOutside_putBytes (s : State) (rd : RegIdx) {addr : Nat} {bs : Bytes}
    (hfit : addr + bs.length ≤ Config.bufSize) : SameBytesOutside addr bs.length s (s.putBytes rd addr bs).finish := by
  intro a ha
  rw [State.readByte_finish, State.putBytes, State.readByte_setInt, State.readByte_memWrite s addr bs a hfit,
    if_neg (by omega)]

/-- Settles O29. Where an operand cannot be read, the case that writes BUF is excluded, as it has read every operand. -/
theorem frameEncoders : Obligations.FrameEncoders := by
  refine ⟨fun rd ra rb form s t h => ?secenc, fun rd ra rb rc s t h => ?derenc⟩
  case secenc =>
    obtain ⟨p, c, addr, hp, ha, -, hfit, rfl⟩ | ⟨e, rfl⟩ := execSecenc_cases h
    · refine ⟨fun p' c' addr' hp' ha' => ?_, fun e he => ?_, encoderFrame_putBytes s rd addr _⟩
      · cases hp.symm.trans hp'
        cases ha.symm.trans ha'
        exact sameBytesOutside_putBytes s rd hfit
      · simp [hp, ha] at he
    · exact ⟨fun _ _ _ _ _ a _ => sameBytes_fail s e a, fun _ _ => sameBytes_fail s e, encoderFrame_fail rd s e⟩
  case derenc =>
    obtain ⟨r, x, addr, hr, hx, ha, hfit, rfl⟩ | ⟨e, rfl⟩ := execDerenc_cases h
    · refine ⟨fun r' x' addr' hr' hx' ha' => ?_, fun e he => ?_, encoderFrame_putBytes s rd addr _⟩
      · cases hr.symm.trans hr'
        cases hx.symm.trans hx'
        cases ha.symm.trans ha'
        exact sameBytesOutside_putBytes s rd hfit
      · simp [hr, hx, ha] at he
    · exact ⟨fun _ _ _ _ _ _ a _ => sameBytes_fail s e a, fun _ _ => sameBytes_fail s e, encoderFrame_fail rd s e⟩

end Sys2Proof.Machine
end

section
/-!
The bytes and the lengths of the SEC and DER encodings (O54; 00_scope.md R15, 43_codec.md R351, R360, R361, R365).
-/

namespace Sys2Proof.Machine

/-! ### Big-endian integers (R15) -/

/-- `be_n(v)` keeps the low n bytes of v. -/
theorem intBe_be_mod (n v : Nat) : intBe (be n v) = v % 256 ^ n := by
  induction n generalizing v with
  | zero => simp [be, Nat.mod_one]
  | succ n ih =>
    have hsplit : v % 256 ^ (n + 1) = v % 256 + 256 * (v / 256 % 256 ^ n) := by rw [Nat.pow_succ', Nat.mod_mul]
    rw [be, intBe_append_singleton, ih, BitVec.toNat_ofNat, hsplit]
    omega

/-- The first byte counts 256 to the number of bytes after it. -/
theorem intBe_cons (b : Byte) (d : Bytes) : intBe (b :: d) = b.toNat * 256 ^ d.length + intBe d := by
  induction d using List.reverseRecOn with
  | nil => simp [intBe]
  | append_singleton d x ih =>
    rw [← List.cons_append, intBe_append_singleton, ih, intBe_append_singleton, List.length_append,
      List.length_singleton, Nat.pow_succ]
    ring

/-! ### The content of a DER integer (R360) -/

theorem head_ne_zero_of_dropWhile_zero {l d : Bytes} {b : Byte} (h : l.dropWhile (· = 0) = b :: d) : b ≠ 0 := by
  have hb := List.head?_dropWhile_not (fun x : Byte => decide (x = 0)) l
  rw [h] at hb
  simpa using hb

/-- The content is the minimal encoding, behind a zero byte where it is empty or starts with a byte of 0x80 or above. -/
theorem derContent_cases (v : Nat) :
    (minbe v = [] ∧ derContent v = [0x00]) ∨
    ∃ b d, minbe v = b :: d ∧ b ≠ 0 ∧
      ((0x80 ≤ b.toNat ∧ derContent v = 0x00 :: b :: d) ∨ (b.toNat < 0x80 ∧ derContent v = b :: d)) := by
  cases hm : minbe v with
  | nil => exact .inl ⟨rfl, by simp [derContent, hm]⟩
  | cons b d =>
    refine .inr ⟨b, d, rfl, head_ne_zero_of_dropWhile_zero hm, ?_⟩
    by_cases hb : 0x80 ≤ b.toNat
    · exact .inl ⟨hb, by simp [derContent, hm, byteAt, hb]⟩
    · exact .inr ⟨by omega, by simp [derContent, hm, byteAt, hb]⟩

theorem intBe_derContent {v : Nat} (hv : v < 2 ^ 256) : intBe (derContent v) = v := by
  have hm := intBe_minbe v hv
  obtain ⟨he, hc⟩ | ⟨b, d, he, -, ⟨-, hc⟩ | ⟨-, hc⟩⟩ := derContent_cases v
  · rw [hc, ← hm, he]; rfl
  · rw [hc, intBe_cons_zero, ← he, hm]
  · rw [hc, ← he, hm]

theorem one_le_derContent_length (v : Nat) : 1 ≤ (derContent v).length := by
  obtain ⟨-, hc⟩ | ⟨b, d, -, -, ⟨-, hc⟩ | ⟨-, hc⟩⟩ := derContent_cases v <;> simp [hc]

theorem derContent_length_le (v : Nat) : (derContent v).length ≤ 33 := by
  have hl := minbe_length_le v
  obtain ⟨he, hc⟩ | ⟨b, d, he, -, ⟨-, hc⟩ | ⟨-, hc⟩⟩ := derContent_cases v <;>
    simp only [he, hc, List.length_cons, List.length_nil] at hl ⊢ <;> omega

/-- A value below 2^255 needs no sign pad on 32 bytes: a 32-byte encoding with the high bit set is at least 2^255. -/
theorem derContent_length_le_of_lt {v : Nat} (hv : v < 2 ^ 255) : (derContent v).length ≤ 32 := by
  have hl := minbe_length_le v
  obtain ⟨he, hc⟩ | ⟨b, d, he, -, ⟨hb, hc⟩ | ⟨-, hc⟩⟩ := derContent_cases v
  · simp [hc]
  · have hval : b.toNat * 256 ^ d.length ≤ v := by
      rw [← intBe_minbe v (by omega), he, intBe_cons]
      exact Nat.le_add_right _ _
    by_contra hlong
    have hd : d.length = 31 := by simp only [he, hc, List.length_cons] at hl hlong; omega
    rw [hd] at hval
    omega
  · rw [hc, ← he]; exact hl

theorem byteAt_derContent_lt (v : Nat) : byteAt (derContent v) 0 < 0x80 := by
  obtain ⟨-, hc⟩ | ⟨b, d, -, -, ⟨-, hc⟩ | ⟨hb, hc⟩⟩ := derContent_cases v
  · simp [hc, byteAt]
  · simp [hc, byteAt]
  · simpa [hc, byteAt] using hb

/-- Shortest content: a leading zero byte is the whole content or the sign pad. -/
theorem derContent_minimal {v : Nat} (h0 : byteAt (derContent v) 0 = 0) :
    (derContent v).length = 1 ∨ 0x80 ≤ byteAt (derContent v) 1 := by
  obtain ⟨-, hc⟩ | ⟨b, d, -, hne, ⟨hb, hc⟩ | ⟨-, hc⟩⟩ := derContent_cases v
  · exact .inl (by simp [hc])
  · exact .inr (by simpa [hc, byteAt] using hb)
  · exact absurd (BitVec.eq_of_toNat_eq (by simpa [hc, byteAt] using h0)) hne

theorem derInt_eq (v : Nat) : derInt v = 0x02 :: BitVec.ofNat 8 (derContent v).length :: derContent v := by
  simp [derInt]

/-! ### The signature (R361, R365) -/

theorem derEnc_eq (r s : Nat) :
    derEnc r s = 0x30 :: BitVec.ofNat 8 (derInt r ++ derInt s).length :: (derInt r ++ derInt s) := by
  simp [derEnc]

theorem derEnc_length (r s : Nat) : (derEnc r s).length = 6 + (derContent r).length + (derContent s).length := by
  simp only [derEnc_eq, derInt_eq, List.length_append, List.length_cons]
  omega

/-! ### SEC (R351) -/

theorem secEnc_uncompressed (x y : Nat) : secEnc (.aff x y) .uncompressed = 0x04 :: (be 32 x ++ be 32 y) := by
  simp [secEnc]

theorem secEnc_compressed (x y : Nat) :
    secEnc (.aff x y) .compressed = (if y % 2 = 0 then 0x02 else 0x03) :: be 32 x := by
  obtain h | h := Nat.mod_two_eq_zero_or_one y <;> simp [secEnc, h]

/-- Settles O54, clause by clause; every DER length is 6 bytes and the lengths of the two contents. -/
theorem encodingBytesAndLengths : Obligations.EncodingBytesAndLengths := by
  refine ⟨⟨intBe_nil, intBe_append_singleton, fun n v => ⟨be_length n v, intBe_be_mod n v⟩⟩, fun _ => rfl,
    fun x y => ⟨secEnc_uncompressed x y, secEnc_compressed x y⟩, fun v hv => ?derInt, derEnc_eq, fun _ => rfl,
    fun x y => ⟨by simp [secEnc], by simp [secEnc]⟩, fun r s => ?len, fun r s _ hs => ?lowS⟩
  case derInt =>
    exact ⟨derContent v, derInt_eq v, intBe_derContent hv, one_le_derContent_length v, derContent_length_le v,
      byteAt_derContent_lt v, derContent_minimal⟩
  case len =>
    have hr := one_le_derContent_length r
    have hs := one_le_derContent_length s
    have hr' := derContent_length_le r
    have hs' := derContent_length_le s
    rw [derEnc_length]
    omega
  case lowS =>
    have hhalf : (Config.N - 1) / 2 < 2 ^ 255 := by decide
    have hr := derContent_length_le r
    have hs := derContent_length_le_of_lt (hs.trans_lt hhalf)
    rw [derEnc_length]
    omega

end Sys2Proof.Machine
end

section
/-!
What one step of the machine can do: an event of the schedule, a host write, an engine step, a command. The invariants
of the state (O21, O22, O24, O40) follow from these by cases.
-/

namespace Sys2Proof.Machine

variable {s t : State}

/-! ### Events -/

/-- An event that answers a next state is a host access, a power-on reset, or an engine step (R102, R600, R620). -/
theorem State.runEvent_cases {e : Event} (h : s.runEvent e = .next t) :
    (∃ off, t = s.hostRead off) ∨ (∃ off v, e = .write off v ∧ t = s.hostWrite off v) ∨ s.engineStep = .next t ∨
      (e = .powerOn ∧ t = s.powerOn) := by
  cases e with
  | read off => cases h; exact .inl ⟨off, rfl⟩
  | write off v => cases h; exact .inr (.inl ⟨off, v, rfl, rfl⟩)
  | engine => exact .inr (.inr (.inl h))
  | powerOn => cases h; exact .inr (.inr (.inr ⟨rfl, rfl⟩))

/-- With nothing scheduled the engine has the step; else the first event is the step (R22, R620; log entry 3). -/
theorem step_cases (h : step s = .next t) :
    s.engineStep = .next t ∨ ∃ e es, s.schedule = e :: es ∧ State.runEvent { s with schedule := es } e = .next t := by
  unfold step at h
  split at h
  · exact .inl h
  · next e es hes => exact .inr ⟨e, es, hes, h⟩

/-- What every event keeps, every step keeps, if it does not depend on the schedule (R620; log entry 3). -/
theorem step_keeps {Inv : State → Prop} (hsched : ∀ s es, Inv s → Inv { s with schedule := es })
    (hread : ∀ s off, Inv s → Inv (s.hostRead off)) (hwrite : ∀ s off v, Inv s → Inv (s.hostWrite off v))
    (hpower : ∀ s : State, Inv s → Inv s.powerOn) (hengine : ∀ s t, Inv s → s.engineStep = .next t → Inv t)
    (hs : Inv s) (h : step s = .next t) : Inv t := by
  obtain he | ⟨e, es, -, h⟩ := step_cases h
  · exact hengine s t hs he
  have hs' := hsched s es hs
  obtain ⟨off, rfl⟩ | ⟨off, v, -, rfl⟩ | he | ⟨-, rfl⟩ := State.runEvent_cases h
  · exact hread _ off hs'
  · exact hwrite _ off v hs'
  · exact hengine _ t hs' he
  · exact hpower _ hs'

/-! ### Host writes -/

/-- All that a host write can do (R61-R63, R68, R70, R71, R104). -/
theorem State.hostWrite_cases (s : State) (off : WordOff) (v : Word32) :
    s.hostWrite off v = s ∨ (placeOf off = .ctrl ∧ v.getLsbD 1 = true ∧ s.hostWrite off v = s.softReset) ∨
      (∃ b, s.hostWrite off v = { s with ie := b }) ∨ s.hostWrite off v = s.writeStatus v ∨
      s.hostWrite off v = s.dropWrite ∨ (s.busy = false ∧ s.fatal = false ∧ s.hostWrite off v = s.accept v) ∨
      (∃ i x, s.hostWrite off v = s.setR i .int x) ∨ ∃ a bs, s.hostWrite off v = s.memWrite a bs := by
  unfold State.hostWrite
  cases hp : placeOf off with
  | ctrl =>
    cases hv : v.getLsbD 1 with
    | true => exact .inr (.inl ⟨rfl, rfl, if_pos hv⟩)
    | false => exact .inr (.inr (.inl ⟨v.getLsbD 0, if_neg (by rw [hv]; exact Bool.false_ne_true)⟩))
  | status => simp [State.portWrite]
  | cmd =>
    cases hb : s.busy <;> cases hf : s.fatal <;> simp [State.portWrite, State.writeCmd, hb, hf]
  | rwin i j =>
    cases hb : s.busy with
    | true => simp [State.portWrite, State.writeRWord, hb]
    | false => exact .inr (.inr (.inr (.inr (.inr (.inr (.inl ⟨i, _, if_neg (by simp [hb])⟩))))))
  | bufw k =>
    cases hb : s.busy with
    | true => simp [State.portWrite, State.writeBufWord, hb]
    | false => exact .inr (.inr (.inr (.inr (.inr (.inr (.inr ⟨_, _, if_neg (by simp [hb])⟩))))))
  | id | rtag | qinfo | info | um | ua | ub | kpubx | kpuby | qx | qy | reserved => exact .inl rfl

/-! ### The engine -/

/-- All that an engine step can do: idle, the pending word's instruction or ILLEGAL_CMD, or the next command of an
evaluation or its end (R147, R411, R413, R620). -/
theorem State.engineStep_cases (h : s.engineStep = .next t) :
    t = s ∨ ∃ w, s.pending = some w ∧
      ((s.eval = none ∧ ((∃ i, decodeCmd w = .ok i ∧ exec i s = .next t) ∨ t = s.fail .illegalCmd)) ∨
        ∃ ev, s.eval = some ev ∧ ((∃ c : ScriptCmd, exec c.toInstr s = .next t) ∨ ∃ v, t = s.finishEval ev v)) := by
  unfold State.engineStep at h
  split at h
  · cases h; exact .inl rfl
  next w hw =>
  refine .inr ⟨w, hw, ?_⟩
  split at h
  · next he =>
    refine .inl ⟨he, ?_⟩
    unfold State.runPending at h
    split at h
    · next i hi => exact .inl ⟨i, hi, h⟩
    · cases h; exact .inr rfl
  · next ev he =>
    refine .inr ⟨ev, he, ?_⟩
    unfold State.runEval at h
    split at h
    · next c _ => exact .inl ⟨c, h⟩
    · cases h; exact .inr ⟨_, rfl⟩

/-! ### Commands -/

/-- The writes that a command can stage before it completes (R146, R502): `CommandWrites key s u` says that `u` is `s`
with a command's writes performed, and `key` holds where they are KLOAD's, which alone writes the key store (R301). -/
inductive CommandWrites (key : Prop) (s : State) : State → Prop
  | none : CommandWrites key s s
  | reg (rd : RegIdx) (tag : Tag) (v : W256) : CommandWrites key s (s.setR rd tag v)
  | twoInts (rd rc : RegIdx) (m n : Nat) : CommandWrites key s ((s.setInt rd m).setInt rc n)
  | point (rd : RegIdx) (x : QReg) : CommandWrites key s (s.setQ rd x)
  | userModulus (v : Nat) : CommandWrites key s (s.setUserModulus v)
  | userCurve (a b : Nat) : CommandWrites key s (s.setUserCurve a b)
  | bytes (rd : RegIdx) (addr : Nat) (bs : Bytes) : CommandWrites key s (s.putBytes rd addr bs)
  | loadKey (rd : RegIdx) (e : Nat) (pub : Pt) (h : key) : CommandWrites key s (s.loadKey rd e pub)

theorem CommandWrites.mono {key key' : Prop} {u : State} (h : CommandWrites key s u) (hk : key → key') :
    CommandWrites key' s u := by
  cases h with
  | none => exact .none
  | reg rd tag v => exact .reg rd tag v
  | twoInts rd rc m n => exact .twoInts rd rc m n
  | point rd x => exact .point rd x
  | userModulus v => exact .userModulus v
  | userCurve a b => exact .userCurve a b
  | bytes rd addr bs => exact .bytes rd addr bs
  | loadKey rd e pub h => exact .loadKey rd e pub (hk h)

/-- The instruction is KLOAD (R301). -/
def IsKload (i : Instr) : Prop := ∃ rd ra, i = .kload rd ra

/-- The pending command is KLOAD (R301). -/
def State.kloadPending (s : State) : Prop := ∃ w rd ra, s.pending = some w ∧ decodeCmd w = .ok (.kload rd ra)

/-- All that one command of an evaluation can do: the evaluation goes on, or SEVAL completes (R411, R413, R507). -/
theorem exec_toInstr_cases {c : ScriptCmd} (h : exec c.toInstr s = .next t) :
    ∃ ev, s.eval = some ev ∧ (t = s.finishEval ev false ∨ ∃ ev', t = { s with eval := some ev' }) := by
  suffices ∃ f : Eval → Option Stack, s.scriptStep f = .next t by
    obtain ⟨f, hf⟩ := this
    obtain ⟨ev, he, ⟨-, ht⟩ | ⟨st, -, ht⟩⟩ := State.scriptStep_cases hf
    · exact ⟨ev, he, .inl ht⟩
    · exact ⟨ev, he, .inr ⟨_, ht⟩⟩
  cases c with
  | push d => exact ⟨fun ev => stackPush d ev.stack, h⟩
  | op o => cases o <;> exact ⟨_, h⟩

/-- All that an instruction can answer: its writes and the completion, an error reported, or, for a script command, an
evaluation that goes on (R411, R502, R504). -/
theorem exec_cases {i : Instr} (h : exec i s = .next t) :
    (∃ e, t = s.fail e) ∨ (∃ u, CommandWrites (IsKload i) s u ∧ t = u.finish) ∨
      ∃ ev ev', s.eval = some ev ∧ t = { s with eval := some ev' } := by
  have hreg {rd : RegIdx} (hd : oneRDest i = some rd) := exec_oneRDest_cases hd h
  have hpoint {rd : RegIdx} (hd : oneQDest i = some rd) := exec_oneQDest_cases hd h
  have hscript (c : ScriptCmd) (hc : c.toInstr = i) :
      (∃ u, CommandWrites (IsKload i) s u ∧ t = u.finish) ∨
        ∃ ev ev', s.eval = some ev ∧ t = { s with eval := some ev' } := by
    obtain ⟨ev, he, ht | ⟨ev', ht⟩⟩ := exec_toInstr_cases (hc ▸ h)
    · exact .inl ⟨_, .reg ev.rd .int _, ht⟩
    · exact .inr ⟨ev, ev', he, ht⟩
  cases i with
  | rmov | rclr | fnew | fred | fadd | fsub | fmul | fdiv | finv | fpow | verify | sparse | seval =>
    obtain ⟨tag, v, ht⟩ | hf := hreg rfl
    · exact .inr (.inl ⟨_, .reg _ tag v, ht⟩)
    · exact .inl hf
  | qmov | qclr | pnew | pinf | padd | pdbl | pmul | secdec =>
    obtain ⟨x, ht⟩ | hf := hpoint rfl
    · exact .inr (.inl ⟨_, .point _ x, ht⟩)
    · exact .inl hf
  | nop => exact .inr (.inl ⟨_, .none, execNop_cases h⟩)
  | mset =>
    obtain ⟨v, -, -, ht⟩ | hf := execMset_cases h
    · exact .inr (.inl ⟨_, .userModulus v, ht⟩)
    · exact .inl hf
  | cset =>
    obtain ⟨a, b, ta, tb, -, -, -, -, -, ht⟩ | hf := execCset_cases h
    · exact .inr (.inl ⟨_, .userCurve a b, ht⟩)
    · exact .inl hf
  | kload rd ra =>
    obtain ⟨k, p, -, -, -, -, ht⟩ | hf := execKload_cases h
    · exact .inr (.inl ⟨_, .loadKey rd k p ⟨rd, ra, rfl⟩, ht⟩)
    · exact .inl hf
  | sign =>
    obtain ⟨z, -, -, -, ht⟩ | hf := execSign_cases h
    · exact .inr (.inl ⟨_, .twoInts _ _ _ _, ht⟩)
    · exact .inl hf
  | derdec =>
    obtain ⟨addr, n, r, x, -, -, -, -, -, -, -, ht⟩ | hf := execDerdec_cases h
    · exact .inr (.inl ⟨_, .twoInts _ _ _ _, ht⟩)
    · exact .inl hf
  | secenc =>
    obtain ⟨p, c, addr, -, -, -, -, ht⟩ | hf := execSecenc_cases h
    · exact .inr (.inl ⟨_, .bytes _ addr _, ht⟩)
    · exact .inl hf
  | derenc =>
    obtain ⟨r, x, addr, -, -, -, -, ht⟩ | hf := execDerenc_cases h
    · exact .inr (.inl ⟨_, .bytes _ addr _, ht⟩)
    · exact .inl hf
  | push d => exact .inr (hscript (.push d) rfl)
  | opDup => exact .inr (hscript (.op .dup) rfl)
  | opEqual => exact .inr (hscript (.op .equal) rfl)
  | opEqualverify => exact .inr (hscript (.op .equalverify) rfl)
  | opHash160 => exact .inr (hscript (.op .hash160) rfl)
  | opChecksig => exact .inr (hscript (.op .checksig) rfl)

/-- All that an engine step can answer: nothing done while idle; else an error reported, a command's writes and the
completion, or an evaluation that goes on (R411, R502, R504, R620). -/
theorem State.engineStep_answers (h : s.engineStep = .next t) :
    t = s ∨ s.busy = true ∧
      ((∃ e, t = s.fail e) ∨ (∃ u, CommandWrites s.kloadPending s u ∧ t = u.finish) ∨
        ∃ ev ev', s.eval = some ev ∧ t = { s with eval := some ev' }) := by
  obtain rfl | ⟨w, hw, hrun⟩ := State.engineStep_cases h
  · exact .inl rfl
  refine .inr ⟨by simp [State.busy, hw], ?_⟩
  obtain ⟨-, ⟨i, hi, h⟩ | rfl⟩ | ⟨ev, hev, ⟨c, h⟩ | ⟨v, rfl⟩⟩ := hrun
  · obtain hf | ⟨u, hu, ht⟩ | hev := exec_cases h
    · exact .inl hf
    · exact .inr (.inl ⟨u, hu.mono fun ⟨rd, ra, hk⟩ => ⟨w, rd, ra, hw, hk ▸ hi⟩, ht⟩)
    · exact .inr (.inr hev)
  · exact .inl ⟨_, rfl⟩
  · obtain ⟨ev, hev, ht | ⟨ev', ht⟩⟩ := exec_toInstr_cases h
    · exact .inr (.inl ⟨_, .reg ev.rd .int _, ht⟩)
    · exact .inr (.inr ⟨ev, ev', hev, ht⟩)
  · exact .inr (.inl ⟨_, .reg ev.rd .int _, rfl⟩)

end Sys2Proof.Machine
end

section
/-!
STATUS, LASTCMD and the pending command (O21), and the key store (O24), along every step.
-/

namespace Sys2Proof.Machine

variable {s t : State}

/-! ### STATUS, LASTCMD and the pending command -/

@[simp] theorem fatalCode_none : fatalCode none = false := rfl
@[simp] theorem fatalCode_some (e : Err) : fatalCode (some e) = e.isFatal := rfl

/-- No command writes ERR, ERRCODE or FATAL before it completes (R502). -/
theorem CommandWrites.status {key : Prop} {u : State} (h : CommandWrites key s u) :
    u.err = s.err ∧ u.errcode = s.errcode ∧ u.fatal = s.fatal := by
  cases h <;> simp

theorem statusOk_finish {key : Prop} {u : State} (hu : CommandWrites key s u) (hs : s.StatusOk) :
    u.finish.StatusOk := by
  obtain ⟨herr, hfatal, -, -, -⟩ := hs
  obtain ⟨he, hc, hf⟩ := hu.status
  exact ⟨by simpa [he, hc] using herr, by simpa [hf, hc] using hfatal, .inl rfl, by simp [State.busy], by simp⟩

/-- A pending command has cleared ERR, so FATAL is 0 and the error it reports is the only one (R63, R505). -/
theorem statusOk_fail (e : Err) (hs : s.StatusOk) (hb : s.busy = true) : (s.fail e).StatusOk := by
  obtain ⟨herr, hfatal, -, hbusy, -⟩ := hs
  have hnone : s.errcode = none := by simpa [(hbusy hb).2] using herr.symm
  exact ⟨rfl, by simp [hfatal, hnone], .inl rfl, by simp [State.busy], by simp⟩

theorem statusOk_reset : State.reset.StatusOk := by decide

/-- ERR and ERRCODE are cleared together, and only while FATAL = 0 (R62, R505). -/
theorem statusOk_writeStatus (v : Word32) (hs : s.StatusOk) : (s.writeStatus v).StatusOk := by
  obtain ⟨herr, hfatal, hpend, hbusy, heval⟩ := hs
  refine ⟨?_, ?_, hpend, fun hb => ?_, heval⟩
  · rw [State.writeStatus_err, State.writeStatus_errcode, herr]
    cases v.getLsbD 2 && !s.fatal <;> simp
  · rw [State.writeStatus_fatal, State.writeStatus_errcode, hfatal]
    cases v.getLsbD 2 <;> cases hf : fatalCode s.errcode <;> simp [hf]
  · obtain ⟨hd, he⟩ := hbusy hb
    simp [hd, he]

theorem statusOk_hostWrite (off : WordOff) (v : Word32) (hs : s.StatusOk) : (s.hostWrite off v).StatusOk := by
  obtain h | ⟨-, -, h⟩ | ⟨b, h⟩ | h | h | ⟨-, hf, h⟩ | ⟨i, x, h⟩ | ⟨a, bs, h⟩ := s.hostWrite_cases off v <;> rw [h]
  · exact hs
  · exact statusOk_reset
  · exact hs
  · exact statusOk_writeStatus v hs
  · exact hs
  · exact ⟨rfl, hf, .inr rfl, fun _ => ⟨rfl, rfl⟩, fun _ => rfl⟩
  · exact hs
  · simpa [State.StatusOk, State.busy] using hs

theorem statusOk_engineStep (hs : s.StatusOk) (h : s.engineStep = .next t) : t.StatusOk := by
  obtain rfl | ⟨hb, ⟨e, rfl⟩ | ⟨u, hu, rfl⟩ | ⟨ev, ev', hev, rfl⟩⟩ := State.engineStep_answers h
  · exact hs
  · exact statusOk_fail e hs hb
  · exact statusOk_finish hu hs
  · obtain ⟨herr, hfatal, hpend, hbusy, -⟩ := hs
    exact ⟨herr, hfatal, hpend, hbusy, fun _ => hb⟩

/-- Settles O21: every event keeps the five conditions. -/
theorem stepKeepsStatusConsistent : Obligations.StepKeepsStatusConsistent := fun _ _ hs h =>
  step_keeps (Inv := State.StatusOk) (fun _ _ hs => hs) (fun _ _ hs => hs)
    (fun _ off v hs => statusOk_hostWrite off v hs)
    (fun _ _ => statusOk_reset) (fun _ _ hs h => statusOk_engineStep hs h) hs h

/-! ### The key store -/

/-- Every command but KLOAD leaves the key store alone (R50). -/
theorem CommandWrites.sameKey {key : Prop} {u : State} (h : CommandWrites key s u) (hk : ¬key) : SameKey s u := by
  cases h with
  | loadKey rd e pub h => exact absurd h hk
  | _ => simp [SameKey]

theorem sameKey_hostWrite (off : WordOff) (v : Word32) (h : ¬(placeOf off = .ctrl ∧ v.getLsbD 1 = true)) :
    SameKey s (s.hostWrite off v) := by
  obtain h' | ⟨hp, hv, -⟩ | ⟨b, h'⟩ | h' | h' | ⟨-, -, h'⟩ | ⟨i, x, h'⟩ | ⟨a, bs, h'⟩ := s.hostWrite_cases off v
  · simp [h', SameKey]
  · exact absurd ⟨hp, hv⟩ h
  all_goals simp [h', SameKey]

theorem sameKey_engineStep (hk : ¬s.kloadPending) (h : s.engineStep = .next t) : SameKey s t := by
  obtain rfl | ⟨-, ⟨e, rfl⟩ | ⟨u, hu, rfl⟩ | ⟨ev, ev', -, rfl⟩⟩ := State.engineStep_answers h
  · exact ⟨rfl, rfl, rfl, rfl⟩
  · exact ⟨rfl, rfl, rfl, rfl⟩
  · exact hu.sameKey hk
  · exact ⟨rfl, rfl, rfl, rfl⟩

/-- Settles O24: the schedule's head is neither reset, and the pending word is not KLOAD. -/
theorem onlyKloadWritesKey : Obligations.OnlyKloadWritesKey := by
  intro s t hreset hpend h
  have hk : ¬s.kloadPending := fun ⟨w, rd, ra, hw, hd⟩ => hpend w rd ra hw hd
  obtain he | ⟨e, es, hes, h⟩ := step_cases h
  · exact sameKey_engineStep hk he
  rw [State.resetNext, hes] at hreset
  obtain ⟨off, rfl⟩ | ⟨off, v, rfl, rfl⟩ | he | ⟨rfl, -⟩ := State.runEvent_cases h
  · exact ⟨rfl, rfl, rfl, rfl⟩
  · exact sameKey_hostWrite (s := { s with schedule := es }) off v fun ⟨hp, hv⟩ => by
      simp only [hp, hv, decide_true, Bool.and_self, Bool.true_eq_false] at hreset
  · exact sameKey_engineStep (s := { s with schedule := es }) hk he
  · cases hreset

end Sys2Proof.Machine
end

section
/-!
The secret key reaches nothing but a signature (O17; 10_state.md R51): host reads do not depend on it, and every step
but a SIGN carries states that differ in KSEC alone to states that differ at most in KSEC.
-/

namespace Sys2Proof.Machine

/-! ### States and answers that differ at most in KSEC -/

/-- The states differ at most in KSEC. -/
def SameButKsec (s t : State) : Prop := s.withKsec 0 = t.withKsec 0

/-- Pseudocode that raises the same error, or ends in states that differ at most in KSEC. -/
def SameAnswer (p q : Except Err State) : Prop := p.map (State.withKsec · 0) = q.map (State.withKsec · 0)

theorem SameButKsec.ite {c : Prop} [Decidable c] {a a' b b' : State} (ha : SameButKsec a a') (hb : SameButKsec b b') :
    SameButKsec (if c then a else b) (if c then a' else b') := by
  by_cases h : c
  · rwa [if_pos h, if_pos h]
  · rwa [if_neg h, if_neg h]

theorem SameAnswer.refl (p : Except Err State) : SameAnswer p p := rfl

theorem SameAnswer.ok {u v : State} (h : SameButKsec u v) : SameAnswer (.ok u) (.ok v) := congrArg Except.ok h

theorem SameAnswer.ite {c : Prop} [Decidable c] {p p' q q' : Except Err State} (hp : SameAnswer p p')
    (hq : SameAnswer q q') : SameAnswer (if c then p else q) (if c then p' else q') := by
  by_cases h : c
  · rwa [if_pos h, if_pos h]
  · rwa [if_neg h, if_neg h]

/-- The same line, and for what it answers the same rest. -/
theorem SameAnswer.bind {α : Type} {x y : Except Err α} {f g : α → Except Err State} (hx : x = y)
    (h : ∀ a, SameAnswer (f a) (g a)) : SameAnswer (x >>= f) (y >>= g) := by
  subst hx
  cases x with
  | error e => rfl
  | ok a => exact h a

/-- Completion keeps KSEC out of everything else. -/
theorem complete_withKsec (s : State) (p : Except Err State) :
    (s.complete p).withKsec 0 = (s.withKsec 0).complete (p.map (State.withKsec · 0)) := by
  cases p <;> rfl

theorem command_withKsec {p q : Except Err State} (s : State) (k : W256) (h : SameAnswer p q) :
    withKsecResult 0 ((s.withKsec k).command p) = withKsecResult 0 (s.command q) := by
  refine congrArg Host.Outcome.next ?_
  rw [complete_withKsec, complete_withKsec, h]
  rfl

/-! ### Reads -/

/-- No word of the register map depends on KSEC (R51). -/
theorem portRead_withKsec (s : State) (k : W256) (p : Place) : (s.withKsec k).portRead p = s.portRead p := by
  cases p <;> rfl

theorem memRead_withKsec (s : State) (k : W256) (addr n : Nat) : (s.withKsec k).memRead addr n = s.memRead addr n :=
  State.memRead_congr (s := s) (t := s.withKsec k) rfl rfl addr n

/-! ### Writes -/

theorem memWrite_withKsec (s : State) (k : W256) (addr : Nat) (bs : Bytes) :
    (s.withKsec k).memWrite addr bs = (s.memWrite addr bs).withKsec k := by
  induction bs generalizing s addr with
  | nil => rfl
  | cons b bs ih => exact ih (s.writeByte addr b) (addr + 1)

theorem sameButKsec_memWrite (s : State) (k : W256) (addr : Nat) (bs : Bytes) :
    SameButKsec ((s.withKsec k).memWrite addr bs) (s.memWrite addr bs) := by
  rw [memWrite_withKsec]; rfl

theorem sameButKsec_putBytes (s : State) (k : W256) (rd : RegIdx) (addr : Nat) (bs : Bytes) :
    SameButKsec ((s.withKsec k).putBytes rd addr bs) (s.putBytes rd addr bs) := by
  rw [State.putBytes, memWrite_withKsec]; rfl

theorem sameButKsec_hostWrite (s : State) (k : W256) (off : WordOff) (v : Word32) :
    SameButKsec ((s.withKsec k).hostWrite off v) (s.hostWrite off v) := by
  unfold State.hostWrite
  cases placeOf off with
  | ctrl => exact .ite rfl rfl
  | cmd => exact .ite rfl rfl
  | rwin i j => exact .ite rfl rfl
  | bufw a => exact .ite rfl (sameButKsec_memWrite s k _ _)
  | status | id | rtag | qinfo | info | um | ua | ub | kpubx | kpuby | qx | qy | reserved => rfl

/-! ### Instructions -/

theorem scriptStep_withKsec (s : State) (k : W256) (f : Eval → Option Stack) :
    withKsecResult 0 ((s.withKsec k).scriptStep f) = withKsecResult 0 (s.scriptStep f) := by
  have he : (s.withKsec k).eval = s.eval := rfl
  unfold State.scriptStep
  rw [he]
  cases s.eval with
  | none => rfl
  | some ev => dsimp only; cases f ev <;> rfl

/-- Every instruction but SIGN reads KSEC nowhere; KLOAD replaces it. -/
theorem exec_withKsec {i : Instr} (s : State) (k : W256) (hi : ∀ rd ra rb, i ≠ .sign rd ra rb) :
    withKsecResult 0 (exec i (s.withKsec k)) = withKsecResult 0 (exec i s) := by
  cases i with
  | sign rd ra rb => exact absurd rfl (hi rd ra rb)
  | nop | rclr | qclr => rfl
  | rmov | qmov => exact command_withKsec s k (.ite (.refl _) (.ok rfl))
  | mset => exact command_withKsec s k (.bind rfl fun _ => .ite (.refl _) (.ok rfl))
  | kload => exact command_withKsec s k (.bind rfl fun _ => .ite (.refl _) (.bind rfl fun _ => .ok rfl))
  | fnew => exact command_withKsec s k (.bind rfl fun _ => .bind rfl fun _ => .ite (.refl _) (.ok rfl))
  | fred => exact command_withKsec s k (.bind rfl fun _ => .bind rfl fun _ => .ok rfl)
  | fadd | fsub | fmul => exact command_withKsec s k (.bind rfl fun _ => .ok rfl)
  | fdiv | finv | fpow => exact command_withKsec s k (.bind rfl fun _ => .bind rfl fun _ => .ok rfl)
  | cset =>
    exact command_withKsec s k (.bind rfl fun _ => .bind rfl fun _ => .ite (.refl _) (.ite (.refl _) (.ok rfl)))
  | pnew =>
    exact command_withKsec s k (.bind rfl fun _ => .bind rfl fun _ => .bind rfl fun _ =>
      .ite (.refl _) (.ite (.ok rfl) (.refl _)))
  | pinf => exact command_withKsec s k (.bind rfl fun _ => .ok rfl)
  | padd =>
    exact command_withKsec s k (.bind rfl fun _ => .bind rfl fun _ => .ite (.refl _) (.bind rfl fun _ => .ok rfl))
  | pdbl => exact command_withKsec s k (.bind rfl fun _ => .bind rfl fun _ => .ok rfl)
  | pmul => exact command_withKsec s k (.bind rfl fun _ => .bind rfl fun _ => .bind rfl fun _ => .ok rfl)
  | verify =>
    exact command_withKsec s k (.bind rfl fun _ => .bind rfl fun _ => .bind rfl fun _ => .bind rfl fun _ =>
      .ite (.refl _) (.ok rfl))
  | secenc =>
    exact command_withKsec s k (.bind rfl fun _ => .bind rfl fun _ => .ite (.refl _) (.bind rfl fun _ =>
      .ok (sameButKsec_putBytes s k _ _ _)))
  | derenc =>
    exact command_withKsec s k (.bind rfl fun _ => .bind rfl fun _ => .bind rfl fun _ => .bind rfl fun _ =>
      .ok (sameButKsec_putBytes s k _ _ _))
  | secdec =>
    exact command_withKsec s k (.bind rfl fun _ => .bind rfl fun _ => .bind rfl fun _ =>
      .bind (congrArg secDec (memRead_withKsec s k _ _)) fun _ => .ok rfl)
  | derdec =>
    exact command_withKsec s k (.ite (.refl _) (.bind rfl fun _ => .bind rfl fun _ => .bind rfl fun _ =>
      .bind (congrArg derDec (memRead_withKsec s k _ _)) fun _ => .ite (.refl _) (.ok rfl)))
  | sparse =>
    exact command_withKsec s k (.bind rfl fun _ => .bind rfl fun _ => .bind rfl fun _ =>
      .bind (congrArg parseScript (memRead_withKsec s k _ _)) fun _ => .ok rfl)
  | seval =>
    exact command_withKsec s k (.bind rfl fun _ => .bind rfl fun _ => .bind rfl fun _ => .bind rfl fun _ =>
      .bind rfl fun _ => .bind rfl fun _ => .bind rfl fun _ =>
      .bind (congrArg parseScript (memRead_withKsec s k _ _)) fun _ =>
      .bind (congrArg parseScript (memRead_withKsec s k _ _)) fun _ => .ok rfl)
  | push d => exact scriptStep_withKsec s k fun ev => stackPush d ev.stack
  | opDup | opEqual | opEqualverify | opHash160 | opChecksig => exact scriptStep_withKsec s k _

/-! ### Steps -/

theorem engineStep_withKsec (s : State) (k : W256)
    (hs : ∀ w rd ra rb, s.pending = some w → decodeCmd w ≠ .ok (.sign rd ra rb)) :
    withKsecResult 0 (s.withKsec k).engineStep = withKsecResult 0 s.engineStep := by
  have hp : (s.withKsec k).pending = s.pending := rfl
  have he : (s.withKsec k).eval = s.eval := rfl
  unfold State.engineStep
  rw [hp, he]
  cases hw : s.pending with
  | none => rfl
  | some w =>
    dsimp only
    cases s.eval with
    | none =>
      dsimp only [State.runPending]
      cases hd : decodeCmd w with
      | error e => rfl
      | ok i => exact exec_withKsec s k fun rd ra rb hi => hs w rd ra rb hw (hi ▸ hd)
    | some ev =>
      dsimp only [State.runEval]
      cases ev.cmds[ev.pc]? with
      | none => rfl
      | some c =>
        refine exec_withKsec s k fun rd ra rb => ?_
        cases c with
        | push d => nofun
        | op o => cases o <;> nofun

theorem runEvent_withKsec (s : State) (k : W256) (e : Event)
    (hs : ∀ w rd ra rb, s.pending = some w → decodeCmd w ≠ .ok (.sign rd ra rb)) :
    withKsecResult 0 ((s.withKsec k).runEvent e) = withKsecResult 0 (s.runEvent e) := by
  cases e with
  | read off => simp only [State.runEvent, State.hostRead, portRead_withKsec]; rfl
  | write off v => exact congrArg Host.Outcome.next (sameButKsec_hostWrite s k off v)
  | engine => exact engineStep_withKsec s k hs
  | powerOn => rfl

/-- Settles O17: one event, or one engine step, from the two states. -/
theorem secretIsNotObservable : Obligations.SecretIsNotObservable := by
  intro s k
  refine ⟨fun off => portRead_withKsec s k _, fun hs => ?_⟩
  have hsched : (s.withKsec k).schedule = s.schedule := rfl
  unfold step
  rw [hsched]
  cases s.schedule with
  | nil => exact engineStep_withKsec s k hs
  | cons e es => exact runEvent_withKsec { s with schedule := es } k e hs

end Sys2Proof.Machine
end

section
/-!
The values of the registers, the user field, the user curve and the key stay in their ranges (O22; 10_state.md R31,
R46-R48, R50): what the operand reads of a state in range answer, which register writes keep the ranges, and every step.
-/

namespace Sys2Proof.Machine

variable {s t : State}

/-! ### Fields and curves of a state in range -/

theorem fieldOf_lt (s : State) (f : FieldSel) : s.fieldOf f < 2 ^ 256 := by
  cases f with
  | p => exact show Config.P < 2 ^ 256 by decide
  | n => exact show Config.N < 2 ^ 256 by decide
  | user => exact s.um.isLt

theorem curveOf_m_lt (s : State) (c : CurveSel) : (s.curveOf c).m < 2 ^ 256 := by
  cases c with
  | secp => exact show Config.P < 2 ^ 256 by decide
  | user => exact s.um.isLt

theorem one_lt_fieldOf (hs : s.ValuesOk) {f : FieldSel} (hf : f = .user → s.umv = true) : 1 < s.fieldOf f := by
  cases f with
  | p => exact show 1 < Config.P by decide
  | n => exact show 1 < Config.N by decide
  | user => exact hs.1 (hf rfl)

theorem one_lt_curveOf_m (hs : s.ValuesOk) {c : CurveSel} (hc : c = .user → s.ucv = true) : 1 < (s.curveOf c).m := by
  obtain ⟨hum, huc, -⟩ := hs
  cases c with
  | secp => exact show 1 < Config.P by decide
  | user => exact hum (huc (hc rfl)).1

/-! ### Registers in range -/

theorem regOk_field_iff {f : FieldSel} {v : W256} :
    s.regOk { tag := .field f, val := v } = true ↔ v.toNat < s.fieldOf f ∧ (f = .user → s.umv = true) := by
  simp [State.regOk, or_iff_not_imp_left]

theorem regOk_toW {f : FieldSel} {v : Nat} (hv : v < s.fieldOf f) (hf : f = .user → s.umv = true) :
    s.regOk { tag := .field f, val := toW v } = true := by
  rw [regOk_field_iff, toW_toNat (hv.trans (fieldOf_lt s f))]
  exact ⟨hv, hf⟩

theorem pointOk_coord_iff {c : CurveSel} {x y : W256} :
    s.pointOk (.coord c x y) = true ↔
      (c = .user → s.ucv = true) ∧ x.toNat < (s.curveOf c).m ∧ y.toNat < (s.curveOf c).m := by
  simp [State.pointOk, or_iff_not_imp_left, and_assoc]

theorem pointOk_inf_iff {c : CurveSel} : s.pointOk (.inf c) = true ↔ (c = .user → s.ucv = true) := by
  simp [State.pointOk, or_iff_not_imp_left]

theorem pointOk_pointReg {c : CurveSel} {p : Pt} (hc : c = .user → s.ucv = true) (hp : p.below (s.curveOf c).m) :
    s.pointOk (pointReg c p) = true := by
  cases p with
  | inf => exact pointOk_inf_iff.2 hc
  | aff x y =>
    obtain ⟨hx, hy⟩ := hp
    have hm := curveOf_m_lt s c
    rw [pointReg, pointOk_coord_iff, toW_toNat (hx.trans hm), toW_toNat (hy.trans hm)]
    exact ⟨hc, hx, hy⟩

/-! ### Operand reads of a state in range -/

/-- A field element that is read is below its modulus, and its field can be used (R48). -/
theorem rfield_range (hs : s.ValuesOk) {i : RegIdx} {a : Nat} {f : FieldSel} (h : s.rfield i = .ok (a, f)) :
    a < s.fieldOf f ∧ (f = .user → s.umv = true) := by
  obtain ⟨-, -, hr, -, -⟩ := hs
  obtain ⟨htag, rfl⟩ := State.rfield_ok h
  rw [← regOk_field_iff, ← htag]
  exact hr i

theorem readPair_range (hs : s.ValuesOk) {ra rb : RegIdx} {p : FieldPair} (h : s.readPair ra rb = .ok p) :
    p.m = s.fieldOf p.t ∧ (p.t = .user → s.umv = true) := by
  obtain ⟨tb, ha, -, -, -, -, hm⟩ := State.readPair_ok h
  exact ⟨hm, (rfield_range hs (State.rfield_of_tag ha)).2⟩

/-- A point that is read has coordinates below its curve's modulus, and its curve can be used (R48). -/
theorem qpt_range (hs : s.ValuesOk) {i : RegIdx} {p : Pt} {c : CurveSel} (h : s.qpt i = .ok (p, c)) :
    p.below (s.curveOf c).m ∧ (c = .user → s.ucv = true) := by
  obtain ⟨-, -, -, hq, -⟩ := hs
  have hi := hq i
  obtain ⟨hg, rfl⟩ | ⟨x, y, hg, rfl⟩ := State.qpt_ok h <;> rw [hg] at hi
  · exact ⟨trivial, pointOk_inf_iff.1 hi⟩
  · obtain ⟨hc, hxy⟩ := pointOk_coord_iff.1 hi
    exact ⟨hxy, hc⟩

/-! ### The SEC parser's points -/

theorem secSelectY_lt (x parity : Nat) : secSelectY x parity < Config.P := by
  unfold secSelectY
  split
  · exact fpow_lt _ _ (by decide)
  · exact fsub_lt _ _ (by decide)

/-- What the SEC parser accepts is a point of SECP (R352). -/
theorem secDec_isOn {d : Bytes} {x y : Nat} (h : secDec d = .ok (x, y)) : (Pt.aff x y).isOn secp := by
  have compressed {parity : Nat} (h : secDecCompressed d parity = .ok (x, y)) : (Pt.aff x y).isOn secp := by
    obtain ⟨-, h⟩ := check_eq_ok h
    obtain ⟨hx, h⟩ := check_eq_ok h
    obtain ⟨ho, h⟩ := test_eq_ok h
    cases h
    exact ⟨Nat.lt_of_not_le hx, secSelectY_lt _ _, ho⟩
  obtain ⟨-, h⟩ := check_eq_ok h
  split at h
  · obtain ⟨-, h⟩ := check_eq_ok h
    obtain ⟨hxy, h⟩ := check_eq_ok h
    obtain ⟨ho, h⟩ := test_eq_ok h
    cases h
    obtain ⟨hx, hy⟩ := not_or.1 hxy
    exact ⟨Nat.lt_of_not_le hx, Nat.lt_of_not_le hy, ho⟩
  · exact compressed h
  · exact compressed h
  · cases h

/-! ### Writes that keep the ranges -/

theorem valuesOk_reset : State.reset.ValuesOk := by decide

theorem valuesOk_finish (hs : s.ValuesOk) : s.finish.ValuesOk := hs

theorem valuesOk_fail (e : Err) (hs : s.ValuesOk) : (s.fail e).ValuesOk := hs

theorem valuesOk_setR {rd : RegIdx} {tag : Tag} {v : W256} (hs : s.ValuesOk)
    (h : s.regOk { tag := tag, val := v } = true) : (s.setR rd tag v).ValuesOk := by
  obtain ⟨hum, huc, hr, hq, hk⟩ := hs
  refine ⟨hum, huc, fun i => ?_, hq, hk⟩
  rw [State.getR_setR]
  split
  · exact h
  · exact hr i

theorem valuesOk_setInt (rd : RegIdx) (n : Nat) (hs : s.ValuesOk) : (s.setInt rd n).ValuesOk := valuesOk_setR hs rfl

theorem valuesOk_setQ {rd : RegIdx} {x : QReg} (hs : s.ValuesOk) (h : s.pointOk x = true) : (s.setQ rd x).ValuesOk := by
  obtain ⟨hum, huc, hr, hq, hk⟩ := hs
  refine ⟨hum, huc, hr, fun i => ?_, hk⟩
  rw [State.getQ_setQ]
  split
  · exact h
  · exact hq i

theorem valuesOk_memWrite (addr : Nat) (bs : Bytes) (hs : s.ValuesOk) : (s.memWrite addr bs).ValuesOk := by
  induction bs generalizing s addr with
  | nil => exact hs
  | cons b bs ih => exact ih (s := s.writeByte addr b) (addr + 1) hs

theorem valuesOk_putBytes (rd : RegIdx) (addr : Nat) (bs : Bytes) (hs : s.ValuesOk) :
    (s.putBytes rd addr bs).ValuesOk :=
  valuesOk_setInt rd _ (valuesOk_memWrite addr bs hs)

/-- A register that is no FU element does not depend on the user field. -/
theorem regOk_clearIfFU {u : State} {x : RReg} (h : s.regOk x = true) : u.regOk (clearIfFU x) = true := by
  obtain ⟨tag, v⟩ := x
  cases tag with
  | empty => exact h
  | int => exact h
  | field f =>
    cases f with
    | p => exact h
    | n => exact h
    | user => rfl

/-- A point that is no USER point does not depend on the user curve. -/
theorem pointOk_clearIfUser {u : State} {x : QReg} (h : s.pointOk x = true) : u.pointOk (clearIfUser x) = true := by
  cases x with
  | empty => exact h
  | inf c =>
    cases c with
    | secp => exact h
    | user => rfl
  | coord c x y =>
    cases c with
    | secp => exact h
    | user => rfl

theorem valuesOk_setUserModulus {v : Nat} (hs : s.ValuesOk) (h1 : 1 < v) (hv : v < 2 ^ 256) :
    (s.setUserModulus v).ValuesOk := by
  obtain ⟨-, -, hr, hq, hk⟩ := hs
  refine ⟨fun _ => ?_, nofun, fun i => ?_, fun i => ?_, hk⟩
  · rw [State.setUserModulus_um, toW_toNat hv]; exact h1
  · rw [State.getR_setUserModulus]; exact regOk_clearIfFU (hr i)
  · rw [State.getQ_setUserModulus]; exact pointOk_clearIfUser (hq i)

theorem valuesOk_setUserCurve {a b : Nat} (hs : s.ValuesOk) (hv : s.umv = true) (ha : a < s.um.toNat)
    (hb : b < s.um.toNat) : (s.setUserCurve a b).ValuesOk := by
  obtain ⟨hum, -, hr, hq, hk⟩ := hs
  refine ⟨hum, fun _ => ⟨hv, ?_, ?_⟩, hr, fun i => ?_, hk⟩
  · rw [State.setUserCurve_ua, toW_toNat (ha.trans s.um.isLt)]; exact ha
  · rw [State.setUserCurve_ub, toW_toNat (hb.trans s.um.isLt)]; exact hb
  · rw [State.getQ_setUserCurve]; exact pointOk_clearIfUser (hq i)

theorem Pt.xOr0_lt {p : Pt} {m : Nat} (hm : 0 < m) (hp : p.below m) : p.xOr0 < m := by
  cases p with
  | inf => exact hm
  | aff x y => exact hp.1

theorem Pt.yOr0_lt {p : Pt} {m : Nat} (hm : 0 < m) (hp : p.below m) : p.yOr0 < m := by
  cases p with
  | inf => exact hm
  | aff x y => exact hp.2

theorem valuesOk_loadKey {rd : RegIdx} {e : Nat} {pub : Pt} (hs : s.ValuesOk) (h1 : 1 ≤ e) (hN : e < Config.N)
    (hp : pub.below Config.P) : (s.loadKey rd e pub).ValuesOk := by
  obtain ⟨hum, huc, hr, hq, -⟩ := hs
  have hP : Config.P < 2 ^ 256 := by decide
  have hx := Pt.xOr0_lt (by decide) hp
  have hy := Pt.yOr0_lt (by decide) hp
  refine valuesOk_setQ ⟨hum, huc, hr, hq, fun _ => ?_⟩ (pointOk_pointReg nofun hp)
  dsimp only
  rw [toW_toNat (hN.trans (by decide)), toW_toNat (hx.trans hP), toW_toNat (hy.trans hP)]
  exact ⟨h1, hN, hx, hy⟩

/-! ### Every step -/

/-- A field command's result, reduced modulo the field of an operand (R206-R213). -/
theorem valuesOk_setField {rd : RegIdx} {f : FieldSel} {v : Nat} (hs : s.ValuesOk) (hf : f = .user → s.umv = true)
    (hv : 1 < s.fieldOf f → v < s.fieldOf f) : (s.setR rd (.field f) (toW v)).ValuesOk :=
  valuesOk_setR hs (regOk_toW (hv (one_lt_fieldOf hs hf)) hf)

/-- The result of a command on two elements of one field, reduced modulo it (R205-R211). -/
theorem valuesOk_setPair {rd ra rb : RegIdx} {p : FieldPair} {v : Nat} (hs : s.ValuesOk) (hp : s.readPair ra rb = .ok p)
    (hv : 1 < p.m → v < p.m) : (s.setR rd (.field p.t) (toW v)).ValuesOk := by
  obtain ⟨hm, hf⟩ := readPair_range hs hp
  exact valuesOk_setField hs hf (hm ▸ hv)

/-- A point command's result (R267-R269). -/
theorem valuesOk_setPoint {rd : RegIdx} {c : CurveSel} {p : Pt} (hs : s.ValuesOk) (hc : c = .user → s.ucv = true)
    (hp : 0 < (s.curveOf c).m → p.below (s.curveOf c).m) : (s.setQ rd (pointReg c p)).ValuesOk :=
  valuesOk_setQ hs (pointOk_pointReg hc (hp (Nat.zero_lt_of_lt (one_lt_curveOf_m hs hc))))

/-- The commands with one R destination write a register in range (R48). -/
theorem valuesOk_exec_oneRDest {i : Instr} {rd : RegIdx} (hd : oneRDest i = some rd) (hs : s.ValuesOk)
    (h : exec i s = .next t) : t.ValuesOk := by
  cases i with
  | rmov rd ra =>
    obtain ⟨-, rfl⟩ | ⟨e, rfl⟩ := execRmov_cases h
    · obtain ⟨-, -, hr, -, -⟩ := id hs
      exact valuesOk_finish (valuesOk_setR hs (hr ra))
    · exact valuesOk_fail e hs
  | rclr rd => obtain rfl := execRclr_cases h; exact valuesOk_finish (valuesOk_setR hs rfl)
  | fnew rd ra mode =>
    obtain ⟨v, -, hf, hv, rfl⟩ | ⟨e, rfl⟩ := execFnew_cases h
    · exact valuesOk_finish (valuesOk_setField hs (State.selectField_ok hf).2 fun _ => hv)
    · exact valuesOk_fail e hs
  | fred rd ra mode =>
    obtain ⟨v, -, hf, rfl⟩ | ⟨e, rfl⟩ := execFred_cases h
    · exact valuesOk_finish (valuesOk_setField hs (State.selectField_ok hf).2 fun h1 =>
        Nat.mod_lt v (Nat.zero_lt_of_lt h1))
    · exact valuesOk_fail e hs
  | fadd rd ra rb =>
    obtain ⟨p, hp, rfl⟩ | ⟨e, rfl⟩ := execFadd_cases h
    · exact valuesOk_finish (valuesOk_setPair hs hp fun h1 => fadd_lt _ _ (Nat.zero_lt_of_lt h1))
    · exact valuesOk_fail e hs
  | fsub rd ra rb =>
    obtain ⟨p, hp, rfl⟩ | ⟨e, rfl⟩ := execFsub_cases h
    · exact valuesOk_finish (valuesOk_setPair hs hp fun h1 => fsub_lt _ _ (Nat.zero_lt_of_lt h1))
    · exact valuesOk_fail e hs
  | fmul rd ra rb =>
    obtain ⟨p, hp, rfl⟩ | ⟨e, rfl⟩ := execFmul_cases h
    · exact valuesOk_finish (valuesOk_setPair hs hp fun h1 => fmul_lt _ _ (Nat.zero_lt_of_lt h1))
    · exact valuesOk_fail e hs
  | fdiv rd ra rb =>
    obtain ⟨p, v, hp, hv, rfl⟩ | ⟨e, rfl⟩ := execFdiv_cases h
    · exact valuesOk_finish (valuesOk_setPair hs hp fun h1 => fdiv_lt (Nat.zero_lt_of_lt h1) hv)
    · exact valuesOk_fail e hs
  | finv rd ra =>
    obtain ⟨a, f, v, ha, hv, rfl⟩ | ⟨e, rfl⟩ := execFinv_cases h
    · exact valuesOk_finish (valuesOk_setField hs (rfield_range hs ha).2 fun h1 => fdiv_lt (Nat.zero_lt_of_lt h1) hv)
    · exact valuesOk_fail e hs
  | fpow rd ra rb =>
    obtain ⟨a, f, x, ha, -, rfl⟩ | ⟨e, rfl⟩ := execFpow_cases h
    · exact valuesOk_finish (valuesOk_setField hs (rfield_range hs ha).2 fun h1 => fpow_lt a x h1)
    · exact valuesOk_fail e hs
  | verify rd ra rb rc re =>
    obtain ⟨p, c, z, r, x, -, -, -, -, -, rfl⟩ | ⟨e, rfl⟩ := execVerify_cases h
    · exact valuesOk_finish (valuesOk_setInt rd _ hs)
    · exact valuesOk_fail e hs
  | sparse rd ra rb =>
    obtain ⟨addr, n, cs, -, -, -, -, rfl⟩ | ⟨e, rfl⟩ := execSparse_cases h
    · exact valuesOk_finish (valuesOk_setInt rd _ hs)
    · exact valuesOk_fail e hs
  | seval rd ra rb rc re rz =>
    obtain ⟨aA, nA, aB, nB, z, cA, cB, -, -, -, -, -, -, -, -, -, rfl⟩ | ⟨e, rfl⟩ := execSeval_cases h
    · exact valuesOk_finish (valuesOk_setInt rd _ hs)
    · exact valuesOk_fail e hs
  | nop | qmov | qclr | mset | cset | pnew | pinf | padd | pdbl | pmul | kload | sign | secenc | secdec | derenc
  | derdec | push | opDup | opEqual | opEqualverify | opHash160 | opChecksig => cases hd

/-- The commands with one Q destination write a point in range (R48). -/
theorem valuesOk_exec_oneQDest {i : Instr} {rd : RegIdx} (hd : oneQDest i = some rd) (hs : s.ValuesOk)
    (h : exec i s = .next t) : t.ValuesOk := by
  cases i with
  | qmov rd ra =>
    obtain ⟨-, rfl⟩ | ⟨e, rfl⟩ := execQmov_cases h
    · obtain ⟨-, -, -, hq, -⟩ := id hs
      exact valuesOk_finish (valuesOk_setQ hs (hq ra))
    · exact valuesOk_fail e hs
  | qclr rd => obtain rfl := execQclr_cases h; exact valuesOk_finish (valuesOk_setQ hs rfl)
  | pnew rd ra rb mode =>
    obtain ⟨x, y, tx, ty, hx, hy, hc, hmx, hmy, -, rfl⟩ | ⟨e, rfl⟩ := execPnew_cases h
    · exact valuesOk_finish (valuesOk_setPoint (p := .aff x y) hs (State.selectCurve_ok hc).2 fun _ =>
        ⟨hmx ▸ (rfield_range hs hx).1, hmy ▸ (rfield_range hs hy).1⟩)
    · exact valuesOk_fail e hs
  | pinf rd mode =>
    obtain ⟨hc, rfl⟩ | ⟨e, rfl⟩ := execPinf_cases h
    · exact valuesOk_finish (valuesOk_setPoint (p := .inf) hs (State.selectCurve_ok hc).2 fun _ => trivial)
    · exact valuesOk_fail e hs
  | padd rd ra rb =>
    obtain ⟨p1, c1, p2, c2, r, h1, h2, hcurve, hr, rfl⟩ | ⟨e, rfl⟩ := execPadd_cases h
    · obtain ⟨hp1, hc1⟩ := qpt_range hs h1
      exact valuesOk_finish (valuesOk_setPoint hs hc1 fun hm => padd_below hm hp1 (hcurve ▸ (qpt_range hs h2).1) hr)
    · exact valuesOk_fail e hs
  | pdbl rd ra =>
    obtain ⟨p, c, r, hp, hr, rfl⟩ | ⟨e, rfl⟩ := execPdbl_cases h
    · obtain ⟨hb, hc⟩ := qpt_range hs hp
      exact valuesOk_finish (valuesOk_setPoint hs hc fun hm => padd_below hm hb hb hr)
    · exact valuesOk_fail e hs
  | pmul rd ra rb =>
    obtain ⟨k, p, c, r, -, hp, hr, rfl⟩ | ⟨e, rfl⟩ := execPmul_cases h
    · obtain ⟨hb, hc⟩ := qpt_range hs hp
      exact valuesOk_finish (valuesOk_setPoint hs hc fun hm => pmul_below hm hb hr)
    · exact valuesOk_fail e hs
  | secdec rd ra rb =>
    obtain ⟨addr, n, x, y, -, -, -, hd, rfl⟩ | ⟨e, rfl⟩ := execSecdec_cases h
    · obtain ⟨hx, hy, -⟩ := secDec_isOn hd
      exact valuesOk_finish (valuesOk_setPoint (c := .secp) (p := .aff x y) hs nofun fun _ => ⟨hx, hy⟩)
    · exact valuesOk_fail e hs
  | nop | rmov | rclr | mset | fnew | fred | fadd | fsub | fmul | fdiv | finv | fpow | cset | kload | sign | verify
  | secenc | derenc | derdec | sparse | seval | push | opDup | opEqual | opEqualverify | opHash160 | opChecksig =>
    cases hd

theorem valuesOk_exec {i : Instr} (hs : s.ValuesOk) (h : exec i s = .next t) : t.ValuesOk := by
  have hscript (c : ScriptCmd) (hc : c.toInstr = i) : t.ValuesOk := by
    obtain ⟨ev, -, rfl | ⟨ev', rfl⟩⟩ := exec_toInstr_cases (hc ▸ h)
    · exact valuesOk_finish (valuesOk_setInt ev.rd _ hs)
    · exact hs
  cases i with
  | rmov | rclr | fnew | fred | fadd | fsub | fmul | fdiv | finv | fpow | verify | sparse | seval =>
    exact valuesOk_exec_oneRDest rfl hs h
  | qmov | qclr | pnew | pinf | padd | pdbl | pmul | secdec => exact valuesOk_exec_oneQDest rfl hs h
  | nop => obtain rfl := execNop_cases h; exact valuesOk_finish hs
  | mset ra =>
    obtain ⟨v, hv, h1, rfl⟩ | ⟨e, rfl⟩ := execMset_cases h
    · exact valuesOk_finish (valuesOk_setUserModulus hs h1 (State.rint_lt hv))
    · exact valuesOk_fail e hs
  | cset ra rb =>
    obtain ⟨a, b, ta, tb, ha, hb, hv, hma, hmb, rfl⟩ | ⟨e, rfl⟩ := execCset_cases h
    · exact valuesOk_finish (valuesOk_setUserCurve hs hv (hma ▸ (rfield_range hs ha).1) (hmb ▸ (rfield_range hs hb).1))
    · exact valuesOk_fail e hs
  | kload rd ra =>
    obtain ⟨k, p, -, h1, hN, hp, rfl⟩ | ⟨e, rfl⟩ := execKload_cases h
    · exact valuesOk_finish (valuesOk_loadKey hs h1 hN (pmul_below (by decide) genG_below hp))
    · exact valuesOk_fail e hs
  | sign rd ra rb =>
    obtain ⟨z, -, -, -, rfl⟩ | ⟨e, rfl⟩ := execSign_cases h
    · exact valuesOk_finish (valuesOk_setInt rb _ (valuesOk_setInt rd _ hs))
    · exact valuesOk_fail e hs
  | secenc rd ra rb mode =>
    obtain ⟨p, c, addr, -, -, -, -, rfl⟩ | ⟨e, rfl⟩ := execSecenc_cases h
    · exact valuesOk_finish (valuesOk_putBytes rd addr _ hs)
    · exact valuesOk_fail e hs
  | derenc rd ra rb rc =>
    obtain ⟨r, x, addr, -, -, -, -, rfl⟩ | ⟨e, rfl⟩ := execDerenc_cases h
    · exact valuesOk_finish (valuesOk_putBytes rd addr _ hs)
    · exact valuesOk_fail e hs
  | derdec rd ra rb rc =>
    obtain ⟨addr, n, r, x, -, -, -, -, -, -, -, rfl⟩ | ⟨e, rfl⟩ := execDerdec_cases h
    · exact valuesOk_finish (valuesOk_setInt rc _ (valuesOk_setInt rd _ hs))
    · exact valuesOk_fail e hs
  | push d => exact hscript (.push d) rfl
  | opDup => exact hscript (.op .dup) rfl
  | opEqual => exact hscript (.op .equal) rfl
  | opEqualverify => exact hscript (.op .equalverify) rfl
  | opHash160 => exact hscript (.op .hash160) rfl
  | opChecksig => exact hscript (.op .checksig) rfl

theorem valuesOk_hostWrite (off : WordOff) (v : Word32) (hs : s.ValuesOk) : (s.hostWrite off v).ValuesOk := by
  obtain h | ⟨-, -, h⟩ | ⟨b, h⟩ | h | h | ⟨-, -, h⟩ | ⟨i, x, h⟩ | ⟨a, bs, h⟩ := s.hostWrite_cases off v <;> rw [h]
  · exact hs
  · exact valuesOk_reset
  · exact hs
  · exact hs
  · exact hs
  · exact hs
  · exact valuesOk_setR hs rfl
  · exact valuesOk_memWrite a bs hs

theorem valuesOk_engineStep (hs : s.ValuesOk) (h : s.engineStep = .next t) : t.ValuesOk := by
  obtain rfl | ⟨w, -, ⟨-, ⟨i, -, h⟩ | rfl⟩ | ⟨ev, -, ⟨c, h⟩ | ⟨v, rfl⟩⟩⟩ := State.engineStep_cases h
  · exact hs
  · exact valuesOk_exec hs h
  · exact valuesOk_fail _ hs
  · exact valuesOk_exec hs h
  · exact valuesOk_finish (valuesOk_setInt ev.rd _ hs)

/-- Settles O22: every event keeps the ranges. -/
theorem stepKeepsValuesInRange : Obligations.StepKeepsValuesInRange := fun _ _ hs h =>
  step_keeps (Inv := State.ValuesOk) (fun _ _ hs => hs) (fun _ _ hs => hs)
    (fun _ off v hs => valuesOk_hostWrite off v hs)
    (fun _ _ => valuesOk_reset) (fun _ _ hs h => valuesOk_engineStep hs h) hs h

end Sys2Proof.Machine
end

section
/-!
Curves over a prime modulus are closed under the addition law and double-and-add (O40; 41_curve.md R263-R266): the field
helpers are the operations of ZMod m, and the third point of a chord or tangent satisfies the curve equation.
-/

namespace Sys2Proof.Machine

/-! ### The field helpers in ZMod m (R18, R209) -/

@[simp] theorem natCast_fadd (a b m : Nat) : (fadd a b m : ZMod m) = a + b := by simp [fadd]

@[simp] theorem natCast_fmul (a b m : Nat) : (fmul a b m : ZMod m) = a * b := by simp [fmul]

/-- The modulus is added before the subtraction, so nothing is cut off for a subtrahend up to it. -/
theorem natCast_fsub (a : Nat) {b m : Nat} (hb : b ≤ m) : (fsub a b m : ZMod m) = a - b := by
  simp [fsub, Nat.cast_sub (hb.trans (Nat.le_add_left m a))]

theorem natCast_ne_zero {a m : Nat} (h0 : a ≠ 0) (hm : a < m) : (a : ZMod m) ≠ 0 := by
  rw [Ne, ZMod.natCast_eq_zero_iff]
  exact Nat.not_dvd_of_pos_of_lt (Nat.pos_of_ne_zero h0) hm

/-- Over a prime modulus `fdiv` is division (R209: Fermat's formula). -/
theorem natCast_fdiv {a b m : Nat} (hm : m.Prime) (h0 : b ≠ 0) (hb : b < m) :
    ∃ v, fdiv a b m = .ok v ∧ (v : ZMod m) * b = a := by
  have := Fact.mk hm
  refine ⟨_, by rw [fdiv_eq a b hm.one_lt, if_neg h0], ?_⟩
  have hfermat : (b : ZMod m) ^ (m - 2) * b = 1 := by
    rw [← pow_succ, show m - 2 + 1 = m - 1 by have := hm.two_le; omega,
      ZMod.pow_card_sub_one_eq_one (natCast_ne_zero h0 hb)]
  simp [mul_assoc, hfermat]

/-- The curve equation is that of the integers modulo m (R252). -/
theorem onCurve_iff (x y : Nat) (c : Curve) :
    onCurve x y c = true ↔ (y : ZMod c.m) ^ 2 = x ^ 3 + c.a * x + c.b := by
  have hmod : ∀ a b : Nat, fadd a b c.m = fadd a b c.m % c.m := fun a b => (Nat.mod_mod _ _).symm
  have hmul : ∀ a b : Nat, fmul a b c.m = fmul a b c.m % c.m := fun a b => (Nat.mod_mod _ _).symm
  rw [onCurve, decide_eq_true_eq, hmul y y, hmod _ c.b, ← ZMod.natCast_eq_natCast_iff']
  simp only [natCast_fadd, natCast_fmul]
  ring_nf

/-! ### The third point of a line -/

section Line
variable {K : Type} [CommRing K] {a b s x1 y1 x2 y2 : K}

/-- The chord of slope s through two points of the curve with distinct x meets it again at x3 = s² - x1 - x2 (R264). -/
theorem chord_equation [IsDomain K] (h1 : y1 ^ 2 = x1 ^ 3 + a * x1 + b) (h2 : y2 ^ 2 = x2 ^ 3 + a * x2 + b)
    (hx : x1 - x2 ≠ 0) (hs : s * (x1 - x2) = y1 - y2) {x3 : K} (hx3 : x3 = s * s - x1 - x2) :
    (s * (x1 - x3) - y1) ^ 2 = x3 ^ 3 + a * x3 + b := by
  subst hx3
  refine mul_left_cancel₀ hx ?_
  linear_combination (s * s - x1 - 2 * x2) * h1 - (s * s - 2 * x1 - x2) * h2 +
    (2 * y2 - (s * (x1 - x2) - (y1 - y2))) * (s * s - 2 * x1 - x2) * hs

/-- The tangent of slope s at a point of the curve meets it again at x3 = s² - 2x (R263). -/
theorem tangent_equation (h1 : y1 ^ 2 = x1 ^ 3 + a * x1 + b) (hs : s * (2 * y1) = 3 * (x1 * x1) + a) {x3 : K}
    (hx3 : x3 = s * s - 2 * x1) : (s * (x1 - x3) - y1) ^ 2 = x3 ^ 3 + a * x3 + b := by
  subst hx3
  linear_combination h1 + (s * s - 3 * x1) * hs

end Line

/-! ### The addition law -/

section Prime
variable {c : Curve} (hm : c.m.Prime)
include hm

/-- The new point is on the curve if its coordinates satisfy the equation in ZMod m. -/
theorem chordPoint_isOn {s x1 y1 x3 : Nat} (hy : y1 < c.m) (hx3 : x3 < c.m)
    (h : ((s : ZMod c.m) * (x1 - x3) - y1) ^ 2 = x3 ^ 3 + c.a * x3 + c.b) : (chordPoint s x1 y1 x3 c.m).isOn c := by
  refine ⟨hx3, fsub_lt _ _ hm.pos, (onCurve_iff _ _ c).2 ?_⟩
  rwa [natCast_fsub _ hy.le, natCast_fmul, natCast_fsub _ hx3.le]

theorem doublePoint_isOn {x y : Nat} (h : (Pt.aff x y).isOn c) (h0 : fadd y y c.m ≠ 0) :
    ∃ q, doublePoint x y c = .ok q ∧ q.isOn c := by
  obtain ⟨-, hy, ho⟩ := h
  have hd : fmul 2 y c.m ≠ 0 := by rwa [fmul, Nat.two_mul]
  obtain ⟨s, hs, hslope⟩ := natCast_fdiv (a := fadd (fmul 3 (fmul x x c.m) c.m) c.a c.m) hm hd (fmul_lt _ _ hm.pos)
  refine ⟨_, by rw [doublePoint, hs]; rfl, chordPoint_isOn hm hy (fsub_lt _ _ hm.pos) ?_⟩
  refine tangent_equation ((onCurve_iff _ _ c).1 ho) (by simpa using hslope) ?_
  simp [natCast_fsub _ (fmul_lt 2 x hm.pos).le]

theorem addDistinct_isOn {x1 y1 x2 y2 : Nat} (h1 : (Pt.aff x1 y1).isOn c) (h2 : (Pt.aff x2 y2).isOn c)
    (hne : x1 ≠ x2) : ∃ q, addDistinct x1 y1 x2 y2 c = .ok q ∧ q.isOn c := by
  have := Fact.mk hm
  obtain ⟨hx1, hy1, ho1⟩ := h1
  obtain ⟨hx2, hy2, ho2⟩ := h2
  have hsub : (fsub x1 x2 c.m : ZMod c.m) = x1 - x2 := natCast_fsub _ hx2.le
  have hdiff : (x1 : ZMod c.m) - x2 ≠ 0 := by
    rw [Ne, sub_eq_zero, ZMod.natCast_eq_natCast_iff', Nat.mod_eq_of_lt hx1, Nat.mod_eq_of_lt hx2]
    exact hne
  have hd : fsub x1 x2 c.m ≠ 0 := fun h => hdiff (by rw [← hsub, h, Nat.cast_zero])
  obtain ⟨s, hs, hslope⟩ := natCast_fdiv (a := fsub y1 y2 c.m) hm hd (fsub_lt _ _ hm.pos)
  rw [hsub, natCast_fsub _ hy2.le] at hslope
  refine ⟨_, by rw [addDistinct, hs]; rfl, chordPoint_isOn hm hy1 (fsub_lt _ _ hm.pos) ?_⟩
  refine chord_equation ((onCurve_iff _ _ c).1 ho1) ((onCurve_iff _ _ c).1 ho2) hdiff hslope ?_
  simp [natCast_fsub _ hx1.le, natCast_fsub _ hx2.le]

/-- Over a prime modulus two points of the curve with one x have the same or opposite y: R265 is never reached. -/
theorem opposite_of_same_x {x y1 y2 : Nat} (h1 : (Pt.aff x y1).isOn c) (h2 : (Pt.aff x y2).isOn c) (hne : y1 ≠ y2) :
    fadd y1 y2 c.m = 0 := by
  have := Fact.mk hm
  obtain ⟨-, hy1, ho1⟩ := h1
  obtain ⟨-, hy2, ho2⟩ := h2
  rw [onCurve_iff] at ho1 ho2
  obtain h | h := sq_eq_sq_iff_eq_or_eq_neg.1 (ho1.trans ho2.symm)
  · rw [ZMod.natCast_eq_natCast_iff', Nat.mod_eq_of_lt hy1, Nat.mod_eq_of_lt hy2] at h
    exact absurd h hne
  · rw [← add_eq_zero_iff_eq_neg, ← Nat.cast_add, ZMod.natCast_eq_zero_iff] at h
    exact Nat.mod_eq_zero_of_dvd h

/-- The addition law never raises between points of the curve, and its results are on the curve (R44, R265). -/
theorem padd_isOn {p1 p2 : Pt} (h1 : p1.isOn c) (h2 : p2.isOn c) : ∃ q, padd p1 p2 c = .ok q ∧ q.isOn c := by
  unfold padd
  cases p1 with
  | inf => exact ⟨_, rfl, h2⟩
  | aff x1 y1 =>
  cases p2 with
  | inf => exact ⟨_, rfl, h1⟩
  | aff x2 y2 =>
  dsimp only
  split
  · exact ⟨_, rfl, trivial⟩
  next hopp =>
  split
  · next heq =>
    obtain ⟨rfl, rfl⟩ := heq
    split
    · exact ⟨_, rfl, trivial⟩
    · exact doublePoint_isOn hm h1 fun h0 => hopp ⟨rfl, h0⟩
  next hneq =>
  split
  · next hx => exact addDistinct_isOn hm h1 h2 hx
  · next hx =>
    obtain rfl := not_not.1 hx
    exact absurd ⟨rfl, opposite_of_same_x hm h1 h2 fun hy => hneq ⟨rfl, hy⟩⟩ hopp

theorem pmulLoop_isOn {fuel k : Nat} {result current : Pt} (h1 : result.isOn c) (h2 : current.isOn c) :
    ∃ q, pmulLoop c fuel result current k = .ok q ∧ q.isOn c := by
  induction fuel generalizing result current k with
  | zero => exact ⟨_, rfl, h1⟩
  | succ fuel ih =>
    unfold pmulLoop
    split
    · exact ⟨_, rfl, h1⟩
    · obtain ⟨d, hd, hdon⟩ := padd_isOn hm h2 h2
      have hbit : ∃ r, addBit k result current c = .ok r ∧ r.isOn c := by
        unfold addBit
        split
        · exact padd_isOn hm h1 h2
        · exact ⟨_, rfl, h1⟩
      obtain ⟨r, hr, hron⟩ := hbit
      rw [hr, ok_bind, hd, ok_bind]
      exact ih hron hdon

/-- Double-and-add never raises on a point of the curve, and its results are on the curve (R266). -/
theorem pmul_isOn (k : Nat) {p : Pt} (hp : p.isOn c) : ∃ q, pmul k p c = .ok q ∧ q.isOn c :=
  pmulLoop_isOn hm trivial hp

end Prime

end Sys2Proof.Machine
end

section
/-!
Every step keeps every point over a prime modulus on its curve (O40; 10_state.md R44).
-/

namespace Sys2Proof.Machine

variable {s t : State} {rd : RegIdx}

/-! ### One point register -/

/-- The point of a Q register is on its curve, if the curve's modulus is prime (R44). -/
def State.pointOn (s : State) : QReg → Prop
  | .empty => True
  | .inf _ => True
  | .coord c x y => (s.curveOf c).m.Prime → (Pt.aff x.toNat y.toNat).isOn (s.curveOf c)

theorem pointsOnCurve_iff (s : State) : s.PointsOnCurve ↔ ∀ i, s.pointOn (s.getQ i) := by
  refine ⟨fun h i => ?_, fun h i p c hp => ?_⟩
  · cases hi : s.getQ i with
    | empty => trivial
    | inf c => trivial
    | coord c x y => exact h i _ c (by rw [State.qpt, hi])
  · have hi := h i
    obtain ⟨-, rfl⟩ | ⟨x, y, hg, rfl⟩ := State.qpt_ok hp
    · exact fun _ => trivial
    · rw [hg] at hi
      exact hi

theorem pointOn_pointReg {c : CurveSel} {p : Pt} (h : (s.curveOf c).m.Prime → p.isOn (s.curveOf c)) :
    s.pointOn (pointReg c p) := by
  cases p with
  | inf => trivial
  | aff x y =>
    intro hm
    obtain ⟨hx, hy, ho⟩ := h hm
    have hlt := curveOf_m_lt s c
    rw [toW_toNat (hx.trans hlt), toW_toNat (hy.trans hlt)]
    exact ⟨hx, hy, ho⟩

/-- A point that is no USER point does not depend on the user curve. -/
theorem pointOn_clearIfUser {u : State} {x : QReg} (h : s.pointOn x) : u.pointOn (clearIfUser x) := by
  cases x with
  | empty => trivial
  | inf c => cases c <;> trivial
  | coord c x y =>
    cases c with
    | secp => exact h
    | user => trivial

/-! ### Writes -/

theorem pointsOnCurve_reset : State.reset.PointsOnCurve := by
  refine (pointsOnCurve_iff _).2 fun i => ?_
  have hi : State.reset.getQ i = .empty := Vector.getElem_replicate _
  rw [hi]
  trivial

theorem pointsOnCurve_finish (hs : s.PointsOnCurve) : s.finish.PointsOnCurve := hs

theorem pointsOnCurve_fail (e : Err) (hs : s.PointsOnCurve) : (s.fail e).PointsOnCurve := hs

theorem pointsOnCurve_setR (rd : RegIdx) (tag : Tag) (v : W256) (hs : s.PointsOnCurve) :
    (s.setR rd tag v).PointsOnCurve := hs

theorem pointsOnCurve_memWrite (addr : Nat) (bs : Bytes) (hs : s.PointsOnCurve) :
    (s.memWrite addr bs).PointsOnCurve := by
  induction bs generalizing s addr with
  | nil => exact hs
  | cons b bs ih => exact ih (s := s.writeByte addr b) (addr + 1) hs

theorem pointsOnCurve_putBytes (rd : RegIdx) (addr : Nat) (bs : Bytes) (hs : s.PointsOnCurve) :
    (s.putBytes rd addr bs).PointsOnCurve :=
  pointsOnCurve_memWrite addr bs hs

theorem pointsOnCurve_setQ {x : QReg} (hs : s.PointsOnCurve) (h : s.pointOn x) : (s.setQ rd x).PointsOnCurve := by
  rw [pointsOnCurve_iff] at hs ⊢
  intro i
  rw [State.getQ_setQ]
  split
  · exact h
  · exact hs i

/-- A point command's result (R267-R269). -/
theorem pointsOnCurve_setPoint {c : CurveSel} {p : Pt} (hs : s.PointsOnCurve)
    (h : (s.curveOf c).m.Prime → p.isOn (s.curveOf c)) : (s.setQ rd (pointReg c p)).PointsOnCurve :=
  pointsOnCurve_setQ hs (pointOn_pointReg h)

theorem pointsOnCurve_setUserModulus (v : Nat) (hs : s.PointsOnCurve) : (s.setUserModulus v).PointsOnCurve := by
  rw [pointsOnCurve_iff] at hs ⊢
  intro i
  rw [State.getQ_setUserModulus]
  exact pointOn_clearIfUser (hs i)

theorem pointsOnCurve_setUserCurve (a b : Nat) (hs : s.PointsOnCurve) : (s.setUserCurve a b).PointsOnCurve := by
  rw [pointsOnCurve_iff] at hs ⊢
  intro i
  rw [State.getQ_setUserCurve]
  exact pointOn_clearIfUser (hs i)

/-! ### Commands -/

theorem genG_isOn : genG.isOn secp := by
  unfold genG Pt.isOn
  decide +kernel

/-- The commands with one Q destination write a point of its curve (R44). -/
theorem pointsOnCurve_exec_oneQDest {i : Instr} (hd : oneQDest i = some rd) (hv : s.ValuesOk) (hs : s.PointsOnCurve)
    (h : exec i s = .next t) : t.PointsOnCurve := by
  cases i with
  | qmov rd ra =>
    obtain ⟨-, rfl⟩ | ⟨e, rfl⟩ := execQmov_cases h
    · exact pointsOnCurve_finish (pointsOnCurve_setQ hs ((pointsOnCurve_iff s).1 hs ra))
    · exact pointsOnCurve_fail e hs
  | qclr rd => obtain rfl := execQclr_cases h; exact pointsOnCurve_finish (pointsOnCurve_setQ hs trivial)
  | pnew rd ra rb mode =>
    obtain ⟨x, y, tx, ty, hx, hy, -, hmx, hmy, ho, rfl⟩ | ⟨e, rfl⟩ := execPnew_cases h
    · exact pointsOnCurve_finish (pointsOnCurve_setPoint (p := .aff x y) hs fun _ =>
        ⟨hmx ▸ (rfield_range hv hx).1, hmy ▸ (rfield_range hv hy).1, ho⟩)
    · exact pointsOnCurve_fail e hs
  | pinf rd mode =>
    obtain ⟨-, rfl⟩ | ⟨e, rfl⟩ := execPinf_cases h
    · exact pointsOnCurve_finish (pointsOnCurve_setQ hs trivial)
    · exact pointsOnCurve_fail e hs
  | padd rd ra rb =>
    obtain ⟨p1, c1, p2, c2, r, h1, h2, hcurve, hr, rfl⟩ | ⟨e, rfl⟩ := execPadd_cases h
    · refine pointsOnCurve_finish (pointsOnCurve_setPoint hs fun hm => ?_)
      have hp2 : p2.isOn (s.curveOf c1) := hcurve ▸ hs rb p2 c2 h2 (hcurve ▸ hm)
      obtain ⟨q, hq, hon⟩ := padd_isOn hm (hs ra p1 c1 h1 hm) hp2
      cases hr.symm.trans hq
      exact hon
    · exact pointsOnCurve_fail e hs
  | pdbl rd ra =>
    obtain ⟨p, c, r, hp, hr, rfl⟩ | ⟨e, rfl⟩ := execPdbl_cases h
    · refine pointsOnCurve_finish (pointsOnCurve_setPoint hs fun hm => ?_)
      obtain ⟨q, hq, hon⟩ := padd_isOn hm (hs ra p c hp hm) (hs ra p c hp hm)
      cases hr.symm.trans hq
      exact hon
    · exact pointsOnCurve_fail e hs
  | pmul rd ra rb =>
    obtain ⟨k, p, c, r, -, hp, hr, rfl⟩ | ⟨e, rfl⟩ := execPmul_cases h
    · refine pointsOnCurve_finish (pointsOnCurve_setPoint hs fun hm => ?_)
      obtain ⟨q, hq, hon⟩ := pmul_isOn hm k (hs rb p c hp hm)
      cases hr.symm.trans hq
      exact hon
    · exact pointsOnCurve_fail e hs
  | secdec rd ra rb =>
    obtain ⟨addr, n, x, y, -, -, -, hd, rfl⟩ | ⟨e, rfl⟩ := execSecdec_cases h
    · exact pointsOnCurve_finish (pointsOnCurve_setPoint (c := .secp) (p := .aff x y) hs fun _ => secDec_isOn hd)
    · exact pointsOnCurve_fail e hs
  | nop | rmov | rclr | mset | fnew | fred | fadd | fsub | fmul | fdiv | finv | fpow | cset | kload | sign | verify
  | secenc | derenc | derdec | sparse | seval | push | opDup | opEqual | opEqualverify | opHash160 | opChecksig =>
    cases hd

theorem pointsOnCurve_exec {i : Instr} (hv : s.ValuesOk) (hs : s.PointsOnCurve) (h : exec i s = .next t) :
    t.PointsOnCurve := by
  have hreg {rd : RegIdx} (hd : oneRDest i = some rd) : t.PointsOnCurve := by
    obtain ⟨tag, v, rfl⟩ | ⟨e, rfl⟩ := exec_oneRDest_cases hd h
    · exact pointsOnCurve_finish (pointsOnCurve_setR rd tag v hs)
    · exact pointsOnCurve_fail e hs
  have hscript (c : ScriptCmd) (hc : c.toInstr = i) : t.PointsOnCurve := by
    obtain ⟨ev, -, rfl | ⟨ev', rfl⟩⟩ := exec_toInstr_cases (hc ▸ h)
    · exact pointsOnCurve_finish (pointsOnCurve_setR ev.rd _ _ hs)
    · exact hs
  cases i with
  | rmov | rclr | fnew | fred | fadd | fsub | fmul | fdiv | finv | fpow | verify | sparse | seval => exact hreg rfl
  | qmov | qclr | pnew | pinf | padd | pdbl | pmul | secdec => exact pointsOnCurve_exec_oneQDest rfl hv hs h
  | nop => obtain rfl := execNop_cases h; exact pointsOnCurve_finish hs
  | mset ra =>
    obtain ⟨v, -, -, rfl⟩ | ⟨e, rfl⟩ := execMset_cases h
    · exact pointsOnCurve_finish (pointsOnCurve_setUserModulus v hs)
    · exact pointsOnCurve_fail e hs
  | cset ra rb =>
    obtain ⟨a, b, ta, tb, -, -, -, -, -, rfl⟩ | ⟨e, rfl⟩ := execCset_cases h
    · exact pointsOnCurve_finish (pointsOnCurve_setUserCurve a b hs)
    · exact pointsOnCurve_fail e hs
  | kload rd ra =>
    obtain ⟨k, p, -, -, -, hp, rfl⟩ | ⟨e, rfl⟩ := execKload_cases h
    · obtain ⟨q, hq, hon⟩ := pmul_isOn prime_P k genG_isOn
      cases hp.symm.trans hq
      exact pointsOnCurve_finish (pointsOnCurve_setPoint (c := .secp) (s := { s with
        ksec := toW k, kpubx := toW p.xOr0, kpuby := toW p.yOr0, kv := true }) hs fun _ => hon)
    · exact pointsOnCurve_fail e hs
  | sign rd ra rb =>
    obtain ⟨z, -, -, -, rfl⟩ | ⟨e, rfl⟩ := execSign_cases h
    · exact pointsOnCurve_finish (pointsOnCurve_setR rb _ _ (pointsOnCurve_setR rd _ _ hs))
    · exact pointsOnCurve_fail e hs
  | derdec rd ra rb rc =>
    obtain ⟨addr, n, r, x, -, -, -, -, -, -, -, rfl⟩ | ⟨e, rfl⟩ := execDerdec_cases h
    · exact pointsOnCurve_finish (pointsOnCurve_setR rc _ _ (pointsOnCurve_setR rd _ _ hs))
    · exact pointsOnCurve_fail e hs
  | secenc rd ra rb mode =>
    obtain ⟨p, c, addr, -, -, -, -, rfl⟩ | ⟨e, rfl⟩ := execSecenc_cases h
    · exact pointsOnCurve_finish (pointsOnCurve_putBytes rd addr _ hs)
    · exact pointsOnCurve_fail e hs
  | derenc rd ra rb rc =>
    obtain ⟨r, x, addr, -, -, -, -, rfl⟩ | ⟨e, rfl⟩ := execDerenc_cases h
    · exact pointsOnCurve_finish (pointsOnCurve_putBytes rd addr _ hs)
    · exact pointsOnCurve_fail e hs
  | push d => exact hscript (.push d) rfl
  | opDup => exact hscript (.op .dup) rfl
  | opEqual => exact hscript (.op .equal) rfl
  | opEqualverify => exact hscript (.op .equalverify) rfl
  | opHash160 => exact hscript (.op .hash160) rfl
  | opChecksig => exact hscript (.op .checksig) rfl

/-! ### Every step -/

theorem pointsOnCurve_hostWrite (off : WordOff) (v : Word32) (hs : s.PointsOnCurve) :
    (s.hostWrite off v).PointsOnCurve := by
  obtain h | ⟨-, -, h⟩ | ⟨b, h⟩ | h | h | ⟨-, -, h⟩ | ⟨i, x, h⟩ | ⟨a, bs, h⟩ := s.hostWrite_cases off v <;> rw [h]
  · exact hs
  · exact pointsOnCurve_reset
  · exact hs
  · exact hs
  · exact hs
  · exact hs
  · exact pointsOnCurve_setR i _ x hs
  · exact pointsOnCurve_memWrite a bs hs

theorem pointsOnCurve_engineStep (hv : s.ValuesOk) (hs : s.PointsOnCurve) (h : s.engineStep = .next t) :
    t.PointsOnCurve := by
  obtain rfl | ⟨w, -, ⟨-, ⟨i, -, h⟩ | rfl⟩ | ⟨ev, -, ⟨c, h⟩ | ⟨v, rfl⟩⟩⟩ := State.engineStep_cases h
  · exact hs
  · exact pointsOnCurve_exec hv hs h
  · exact pointsOnCurve_fail _ hs
  · exact pointsOnCurve_exec hv hs h
  · exact pointsOnCurve_finish (pointsOnCurve_setR ev.rd _ _ hs)

/-- Both invariants together are kept by every event. -/
theorem step_keeps_pointsOnCurve (hv : s.ValuesOk) (hs : s.PointsOnCurve) (h : step s = .next t) : t.PointsOnCurve :=
  (step_keeps (Inv := fun s => s.ValuesOk ∧ s.PointsOnCurve) (fun _ _ hs => hs) (fun _ _ hs => hs)
    (fun _ off v hs => ⟨valuesOk_hostWrite off v hs.1, pointsOnCurve_hostWrite off v hs.2⟩)
    (fun _ _ => ⟨valuesOk_reset, pointsOnCurve_reset⟩)
    (fun _ _ hs h => ⟨valuesOk_engineStep hs.1 h, pointsOnCurve_engineStep hs.1 hs.2 h⟩) ⟨hv, hs⟩ h).2

/-- PADD on points of one curve value is the addition law (R267). -/
theorem exec_padd_of_ok {ra rb : RegIdx} {p1 p2 q : Pt} {c1 c2 : CurveSel} (h1 : s.qpt ra = .ok (p1, c1))
    (h2 : s.qpt rb = .ok (p2, c2)) (hc : s.curveOf c1 = s.curveOf c2) (hq : padd p1 p2 (s.curveOf c1) = .ok q) :
    exec (.padd rd ra rb) s = .next (s.setQ rd (pointReg c1 q)).finish := by
  simp [exec, execPadd, State.command_next, h1, h2, ← hc, hq]

/-- PMUL is double-and-add on the point's curve (R269). -/
theorem exec_pmul_of_ok {ra rb : RegIdx} {k : Nat} {p q : Pt} {c : CurveSel} (hk : s.rint ra = .ok k)
    (hp : s.qpt rb = .ok (p, c)) (hq : pmul k p (s.curveOf c) = .ok q) :
    exec (.pmul rd ra rb) s = .next (s.setQ rd (pointReg c q)).finish := by
  simp [exec, execPmul, State.command_next, hk, hp, hq]

/-- Settles O40: the invariant along every step, and the closure of curves over a prime modulus. -/
theorem primeCurveIsClosed : Obligations.PrimeCurveIsClosed := by
  refine ⟨fun s t hv hs h => step_keeps_pointsOnCurve hv hs h, fun c hm _ _ =>
    ⟨fun p1 p2 h1 h2 => padd_isOn hm h1 h2, fun k p hp => pmul_isOn hm k hp, ?_⟩⟩
  intro s rd ra rb p1 p2 c1 c2 hra hrb hc1 hc2 h1 h2
  constructor
  · obtain ⟨q, hq, hon⟩ := padd_isOn hm h1 h2
    exact ⟨q, hon, exec_padd_of_ok hra hrb (hc1.trans hc2.symm) (hc1 ▸ hq)⟩
  · intro rk k hk
    obtain ⟨q, hq, hon⟩ := pmul_isOn hm k h1
    exact ⟨q, hon, exec_pmul_of_ok hk hra (hc1 ▸ hq)⟩

end Sys2Proof.Machine
end

section
/-!
The host port and the status words (O8, O9, O10, O13, O14, O15; 10_state.md R33, R61-R68, R71; 20_memory.md R104).
-/

namespace Sys2Proof.Machine

/-! ### The register map -/

theorem placeOf_ctrl : placeOf (atOffset 0x004) = .ctrl := by decide
theorem placeOf_status : placeOf (atOffset 0x008) = .status := by decide
theorem placeOf_cmd : placeOf (atOffset 0x00C) = .cmd := by decide
theorem placeOf_info : placeOf (atOffset 0x020) = .info := by decide

theorem readAt_ctrl (s : State) : s.readAt 0x004 = s.ctrlWord := by rw [State.readAt, placeOf_ctrl]; rfl
theorem readAt_status (s : State) : s.readAt 0x008 = s.statusWord := by rw [State.readAt, placeOf_status]; rfl
theorem readAt_cmd (s : State) : s.readAt 0x00C = s.lastcmd := by rw [State.readAt, placeOf_cmd]; rfl
theorem readAt_info (s : State) : s.readAt 0x020 = s.infoWord := by rw [State.readAt, placeOf_info]; rfl

theorem writeAt_ctrl (s : State) (v : Word32) : s.writeAt 0x004 v = s.writeCtrl v := by
  rw [State.writeAt, State.hostWrite, placeOf_ctrl]; rfl
theorem writeAt_status (s : State) (v : Word32) : s.writeAt 0x008 v = s.writeStatus v := by
  rw [State.writeAt, State.hostWrite, placeOf_status]; rfl
theorem writeAt_cmd (s : State) (w : Word32) : s.writeAt 0x00C w = s.writeCmd w := by
  rw [State.writeAt, State.hostWrite, placeOf_cmd]; rfl

/-- The words of the R window (R68). -/
theorem placeAt_rwin {n : Nat} (h1 : 0x40 ≤ n) (h2 : n < 0xC0) : ∃ i j, placeAt n = .rwin i j := by
  unfold placeAt
  iterate 14 rw [if_neg (by omega)]
  rw [if_pos h2]
  exact ⟨_, _, rfl⟩

/-- The words of the BUF window (R70). -/
theorem placeAt_bufw {n : Nat} (h1 : 0x400 ≤ n) (h2 : n < 0x800) : ∃ k, placeAt n = .bufw k := by
  unfold placeAt
  iterate 18 rw [if_neg (by omega)]
  rw [if_pos h2]
  exact ⟨_, rfl⟩

/-- The places that no host write changes (R104). -/
def Place.readOnly : Place → Bool
  | .ctrl | .status | .cmd | .rwin .. | .bufw .. => false
  | .id | .rtag .. | .qinfo .. | .info | .um .. | .ua .. | .ub .. | .kpubx .. | .kpuby .. => true
  | .qx .. | .qy .. | .reserved => true

theorem portWrite_of_readOnly (s : State) {p : Place} (v : Word32) (h : p.readOnly = true) : s.portWrite p v = s := by
  cases p with
  | ctrl | status | cmd | rwin | bufw => cases h
  | id | rtag | qinfo | info | um | ua | ub | kpubx | kpuby | qx | qy | reserved => rfl

theorem readOnly_ite {c : Prop} [Decidable c] {p q : Place} (hp : c → p.readOnly = true) (hq : ¬c → q.readOnly = true) :
    (if c then p else q).readOnly = true := by
  by_cases h : c
  · rw [if_pos h]; exact hp h
  · rw [if_neg h]; exact hq h

/-- The constant, the info words, the read-only and reserved ranges, and everything past the map are read-only. -/
theorem placeAt_readOnly {n : Nat} (h : n = 0 ∨ (4 ≤ n ∧ n < 0x40) ∨ (0xC0 ≤ n ∧ n < 0x400) ∨ 0x800 ≤ n) :
    (placeAt n).readOnly = true := by
  unfold placeAt qPlace
  repeat' refine readOnly_ite (fun _ => ?_) fun _ => ?_
  any_goals rfl
  all_goals omega

/-- Settles O9: the three places a busy block drops writes to, and the places no write changes. -/
theorem hostWritesByOffset : Obligations.HostWritesByOffset := by
  intro s off v
  refine ⟨fun hb hoff => ?busy, fun hoff => ?readOnly, writeAt_ctrl s v, writeAt_status s v⟩
  case busy =>
    unfold State.hostWrite placeOf
    obtain hcmd | hr | hbuf := hoff
    · rw [show off.toNat = 3 by omega]
      exact if_pos (by simp [hb])
    · obtain ⟨i, j, hp⟩ := placeAt_rwin (n := off.toNat) (by omega) (by omega)
      rw [hp]
      exact if_pos hb
    · obtain ⟨k, hp⟩ := placeAt_bufw (n := off.toNat) (by omega) (by omega)
      rw [hp]
      exact if_pos hb
  case readOnly => exact portWrite_of_readOnly s v (placeAt_readOnly (by omega))

/-- Settles O8: the two cases of R63 exclude each other. -/
theorem cmdWriteAcceptedOrDropped : Obligations.CmdWriteAcceptedOrDropped := by
  intro s w
  refine ⟨fun hb hf => ?accepted, fun h => ?dropped, readAt_cmd s⟩ <;> rw [writeAt_cmd, State.writeCmd]
  case accepted => rw [if_neg (by simp [hb, hf])]; rfl
  case dropped => rw [if_pos (by simpa using h)]; rfl

/-- Settles O15: bit 1 of the word written decides. -/
theorem ctrlAndIrq : Obligations.CtrlAndIrq := by
  intro s v
  refine ⟨fun hv => ?reset, fun hv => ?enable, ?read, by simp [State.irq]⟩
  case reset => rw [writeAt_ctrl, State.writeCtrl, if_pos hv]
  case enable => rw [writeAt_ctrl, State.writeCtrl, if_neg (by rw [hv]; exact Bool.false_ne_true)]
  case read => rw [readAt_ctrl, State.ctrlWord]; cases s.ie <;> rfl

/-! ### The R window -/

theorem writeAt_rwin (s : State) (i : RegIdx) {j : Nat} (v : Word32) (hj : j < 8) (hb : s.busy = false) :
    s.writeAt (0x100 + 0x20 * i.val + 4 * j) v = s.setR i .int (setWord256 (s.getR i).hostVal j v) := by
  rw [State.writeAt, State.hostWrite, placeOf_rwin i hj]
  exact if_neg (by simp [hb])

theorem hostVal_toNat (x : RReg) : x.hostVal.toNat = if x.tag = .empty then 0 else x.val.toNat := by
  unfold RReg.hostVal
  split <;> rfl

/-- Settles O10: the other words are those the host reads, 0 where the register was EMPTY (R33). -/
theorem registerWindowWrite : Obligations.RegisterWindowWrite := by
  intro s i j v hj hb
  dsimp only
  rw [writeAt_rwin s i v hj hb]
  refine ⟨by rw [State.getR_setR_self], fun k hk => ?_, fun i' hi => s.getR_setR_of_ne _ _ hi.symm, rfl⟩
  rw [State.getR_setR_self, setWord256_word _ v hj hk, hostVal_toNat]
  by_cases he : (s.getR i).tag = .empty <;> simp [he]

/-! ### STATUS -/

theorem errcodeValue_lt (e : Option Err) : errcodeValue e < 0x100 := by
  cases e with
  | none => decide
  | some e => cases e <;> decide

theorem statusWord_toNat (s : State) : s.statusWord.toNat = s.busy.toNat + 2 * s.done.toNat + 4 * s.err.toNat
    + 8 * s.fatal.toNat + 16 * s.wdrop.toNat + 256 * errcodeValue s.errcode := by
  have h1 := Bool.toNat_le s.busy
  have h2 := Bool.toNat_le s.done
  have h3 := Bool.toNat_le s.err
  have h4 := Bool.toNat_le s.fatal
  have h5 := Bool.toNat_le s.wdrop
  have h6 := errcodeValue_lt s.errcode
  rw [State.statusWord, BitVec.toNat_ofNat, Nat.mod_eq_of_lt (by omega)]

/-- The fields of the STATUS word (R62). -/
theorem statusWord_fields (s : State) :
    bitsOf s.statusWord 0 0 = s.busy.toNat ∧ bitsOf s.statusWord 1 1 = s.done.toNat ∧
    bitsOf s.statusWord 2 2 = s.err.toNat ∧ bitsOf s.statusWord 3 3 = s.fatal.toNat ∧
    bitsOf s.statusWord 4 4 = s.wdrop.toNat ∧ bitsOf s.statusWord 7 5 = 0 ∧
    bitsOf s.statusWord 15 8 = errcodeValue s.errcode ∧ bitsOf s.statusWord 31 16 = 0 := by
  have h1 := Bool.toNat_le s.busy
  have h2 := Bool.toNat_le s.done
  have h3 := Bool.toNat_le s.err
  have h4 := Bool.toNat_le s.fatal
  have h5 := Bool.toNat_le s.wdrop
  have h6 := errcodeValue_lt s.errcode
  simp only [bitsOf, statusWord_toNat]
  refine ⟨?_, ?_, ?_, ?_, ?_, ?_, ?_, ?_⟩ <;> omega

/-- Settles O13: the word is a sum of fields that do not overlap; a write acknowledges ERR and ERRCODE together. -/
theorem statusWordAndWrites : Obligations.StatusWordAndWrites := by
  intro s v
  refine ⟨?fields, by simp [State.busy, Option.isSome_iff_exists], ?_⟩
  case fields =>
    rw [readAt_status]
    obtain ⟨hbusy, hdone, herr, hfatal, hwdrop, h75, hcode, hhigh⟩ := statusWord_fields s
    refine ⟨hbusy, hdone, herr, hfatal, hwdrop, h75, hcode.trans ?_, hhigh⟩
    cases s.errcode with
    | none => rfl
    | some e => cases e <;> rfl
  dsimp only
  rw [writeAt_status]
  refine ⟨?done, ?wdrop, fun hv hf => ?cleared, fun h => ?kept, rfl⟩
  case done => rw [State.writeStatus_done, Bool.and_eq_true, Bool.not_eq_true']
  case wdrop => rw [State.writeStatus_wdrop, Bool.and_eq_true, Bool.not_eq_true']
  case cleared => rw [State.writeStatus_err, State.writeStatus_errcode, hv, hf]; simp
  case kept =>
    have hack : (v.getLsbD 2 && !s.fatal) = false := by
      obtain h | h := h <;> rw [h] <;> simp
    rw [State.writeStatus_err, State.writeStatus_errcode, hack]
    simp

/-! ### RTAG, QINFO, INFO -/

/-- Digit k of the packed word is nibble k (R64, R65). -/
theorem packNibbles_digit {l : List Nat} (hl : ∀ n ∈ l, n < 16) (k : Nat) :
    packNibbles l / 16 ^ k % 16 = l.getD k 0 := by
  induction l generalizing k with
  | nil => simp [packNibbles]
  | cons n l ih =>
    have hn := hl n List.mem_cons_self
    cases k with
    | zero => simp only [packNibbles, Nat.pow_zero, List.getD_cons_zero]; omega
    | succ k =>
      rw [packNibbles, Nat.pow_succ', ← Nat.div_div_eq_div_mul, List.getD_cons_succ,
        ← ih (fun m hm => hl m (List.mem_cons_of_mem n hm)) k]
      congr 2
      omega

theorem packNibbles_lt {l : List Nat} (hl : ∀ n ∈ l, n < 16) : packNibbles l < 16 ^ l.length := by
  induction l with
  | nil => simp [packNibbles]
  | cons n l ih =>
    have hn := hl n List.mem_cons_self
    have := ih fun m hm => hl m (List.mem_cons_of_mem n hm)
    rw [packNibbles, List.length_cons, Nat.pow_succ]
    omega

/-- Nibble i mod 8 of the word for half i / 8 of a register file (R64, R65). -/
theorem bitsOf_packed_half {α : Type} (v : Vector α 16) (f : α → Nat) (hf : ∀ x, f x < 16) (i : RegIdx) :
    bitsOf (BitVec.ofNat 32 (packNibbles (((v.toList.drop (8 * (i.val / 8))).take 8).map f)))
      (4 * (i.val % 8) + 3) (4 * (i.val % 8)) = f v[i] := by
  have hi := i.isLt
  have hl : ∀ n ∈ ((v.toList.drop (8 * (i.val / 8))).take 8).map f, n < 16 := by
    intro n hn
    obtain ⟨x, -, rfl⟩ := List.mem_map.1 hn
    exact hf x
  have hlt := packNibbles_lt hl
  have hlen : (((v.toList.drop (8 * (i.val / 8))).take 8).map f).length = 8 := by
    simp
    omega
  rw [hlen] at hlt
  rw [bitsOf, BitVec.toNat_ofNat, Nat.mod_eq_of_lt (show _ < 2 ^ 32 from hlt),
    show 4 * (i.val % 8) + 3 + 1 - 4 * (i.val % 8) = 4 by omega,
    Nat.pow_mul, show (2 : Nat) ^ 4 = 16 from rfl, packNibbles_digit hl, List.getD_eq_getElem _ _ (by omega)]
  simp [Nat.div_add_mod]

theorem tag_code_lt (t : Tag) : t.code < 16 := by
  cases t with
  | empty => decide
  | int => decide
  | field f => cases f <;> decide

theorem qreg_nibble_lt (x : QReg) : x.nibble < 16 := by
  cases x with
  | empty => decide
  | inf c => cases c <;> decide
  | coord c x y => cases c <;> exact show _ < 16 by simp [QReg.nibble, curveBit]

theorem readAt_rtag (s : State) (i : RegIdx) : s.readAt (0x010 + 4 * (i.val / 8)) = s.rtagWord (i.val / 8) := by
  have hi := i.isLt
  obtain h | h : i.val / 8 = 0 ∨ i.val / 8 = 1 := by omega
  · rw [h, State.readAt, show placeOf (atOffset (0x010 + 4 * 0)) = .rtag 0 by decide]; rfl
  · rw [h, State.readAt, show placeOf (atOffset (0x010 + 4 * 1)) = .rtag 1 by decide]; rfl

theorem readAt_qinfo (s : State) (i : RegIdx) : s.readAt (0x018 + 4 * (i.val / 8)) = s.qinfoWord (i.val / 8) := by
  have hi := i.isLt
  obtain h | h : i.val / 8 = 0 ∨ i.val / 8 = 1 := by omega
  · rw [h, State.readAt, show placeOf (atOffset (0x018 + 4 * 0)) = .qinfo 0 by decide]; rfl
  · rw [h, State.readAt, show placeOf (atOffset (0x018 + 4 * 1)) = .qinfo 1 by decide]; rfl

/-- The fields of the INFO word (R66). -/
theorem infoWord_fields (s : State) :
    bitsOf s.infoWord 0 0 = s.umv.toNat ∧ bitsOf s.infoWord 1 1 = s.ucv.toNat ∧
    bitsOf s.infoWord 2 2 = s.kv.toNat ∧ bitsOf s.infoWord 31 3 = 0 := by
  unfold State.infoWord
  cases s.umv <;> cases s.ucv <;> cases s.kv <;> decide

/-- Settles O14: each word is the digits of its half of a register file. -/
theorem tagAndInfoWords : Obligations.TagAndInfoWords := by
  intro s
  refine ⟨fun i => ?rtag, fun i => ?qinfo, by rw [readAt_info]; exact infoWord_fields s⟩
  case rtag =>
    rw [readAt_rtag, State.rtagWord, bitsOf_packed_half s.r (fun x => x.tag.code) (fun x => tag_code_lt x.tag) i]
    change (s.getR i).tag.code = _
    cases (s.getR i).tag with
    | empty => rfl
    | int => rfl
    | field f => cases f <;> rfl
  case qinfo =>
    rw [readAt_qinfo, State.qinfoWord, bitsOf_packed_half s.q QReg.nibble qreg_nibble_lt i]
    change (s.getQ i).nibble = _
    cases s.getQ i with
    | empty => rfl
    | inf c => cases c <;> rfl
    | coord c x y => cases c <;> rfl

end Sys2Proof.Machine
end

section
/-!
The operand reads (O31), and the commands that set up the user field, the user curve and their elements (O33, O36;
40_field.md R202-R204, 41_curve.md R251-R253).
-/

namespace Sys2Proof.Machine

/-- Settles O31: one clause per tag of the register and per kind of the point. -/
theorem operandReads : Obligations.OperandReads := by
  intro s i
  refine ⟨fun h => ⟨?_, ?_⟩, State.rint_of_tag, fun h => ?_, fun f => State.rfield_of_tag, fun h => ?_, fun c h => ?_,
    fun c x y h => ?_⟩
  · rw [State.rint_eq, if_pos h]
  · rw [State.rfield, h]
  · rw [State.rfield, h]
  all_goals rw [State.qpt, h]

/-! ### Selection by MODE (R201, R250) -/

theorem selectField_of_usable {s : State} {f : FieldSel} (h : f = .user → s.umv = true) : s.selectField f = .ok f := by
  cases f with
  | p => rfl
  | n => rfl
  | user => exact if_pos (h rfl)

theorem selectCurve_of_usable {s : State} {c : CurveSel} (h : c = .user → s.ucv = true) : s.selectCurve c = .ok c := by
  cases c with
  | secp => rfl
  | user => exact if_pos (h rfl)

/-! ### MSET, FNEW, FRED -/

variable {s : State} {rd ra rb : RegIdx}

theorem exec_mset_of_ok {v : Nat} (hv : s.rint ra = .ok v) (h1 : 1 < v) :
    exec (.mset ra) s = .next (s.setUserModulus v).finish := by
  simp [exec, execMset, State.command_next, hv, Nat.not_le.2 h1]

theorem exec_fnew_of_ok {v : Nat} {mode : FieldSel} (hv : s.rint ra = .ok v) (hm : mode = .user → s.umv = true)
    (hlt : v < s.fieldOf mode) : exec (.fnew rd ra mode) s = .next (s.setR rd (.field mode) (toW v)).finish := by
  simp [exec, execFnew, State.command_next, hv, selectField_of_usable hm, Nat.not_le.2 hlt]

theorem exec_fred_of_ok {v : Nat} {mode : FieldSel} (hv : s.rint ra = .ok v) (hm : mode = .user → s.umv = true) :
    exec (.fred rd ra mode) s = .next (s.setR rd (.field mode) (toW (v % s.fieldOf mode))).finish := by
  simp [exec, execFred, State.command_next, hv, selectField_of_usable hm]

/-- Settles O33: each command is its named update, completed; MSET's loops leave what R202 says. -/
theorem fieldSetupResults : Obligations.FieldSetupResults := by
  intro s rd ra v hv
  refine ⟨fun h1 => ⟨_, exec_mset_of_ok hv h1, rfl, rfl, rfl, rfl, rfl, toW_toNat (State.rint_lt hv), rfl, rfl, rfl,
    fun i => ?_, fun i => ?_⟩,
    fun mode hm => ⟨fun hlt => exec_fnew_of_ok hv hm hlt, exec_fred_of_ok hv hm⟩, rfl, rfl, rfl⟩
  · rw [State.getR_finish, State.getR_setUserModulus]; rfl
  · rw [State.getQ_finish, State.getQ_setUserModulus]; rfl

/-! ### CSET, PNEW, PINF -/

theorem exec_cset_of_ok {a b : Nat} {ta tb : FieldSel} (ha : s.rfield ra = .ok (a, ta)) (hb : s.rfield rb = .ok (b, tb))
    (hv : s.umv = true) (hta : s.fieldOf ta = s.um.toNat) (htb : s.fieldOf tb = s.um.toNat) :
    exec (.cset ra rb) s = .next (s.setUserCurve a b).finish := by
  simp [exec, execCset, State.command_next, ha, hb, hv, hta, htb]

/-- The curve equation over the integers, with one reduction (R252). -/
theorem onCurve_of_equation {x y : Nat} {c : Curve} (h : y * y % c.m = (x * x * x + c.a * x + c.b) % c.m) :
    onCurve x y c = true := by
  simpa [onCurve, fadd, fmul, Nat.add_mod, Nat.mul_mod] using h

theorem exec_pnew_of_ok {x y : Nat} {tx ty : FieldSel} {c : CurveSel} (hx : s.rfield ra = .ok (x, tx))
    (hy : s.rfield rb = .ok (y, ty)) (hc : c = .user → s.ucv = true) (htx : s.fieldOf tx = (s.curveOf c).m)
    (hty : s.fieldOf ty = (s.curveOf c).m) (ho : onCurve x y (s.curveOf c) = true) :
    exec (.pnew rd ra rb c) s = .next (s.setQ rd (.coord c (toW x) (toW y))).finish := by
  simp [exec, execPnew, State.command_next, hx, hy, selectCurve_of_usable hc, htx, hty, ho]

theorem exec_pinf_of_ok {c : CurveSel} (hc : c = .user → s.ucv = true) :
    exec (.pinf rd c) s = .next (s.setQ rd (.inf c)).finish := by
  simp [exec, execPinf, State.command_next, selectCurve_of_usable hc]

/-- Settles O36: each command is its named update, completed; the equation of the statement is the one PNEW checks. -/
theorem curveConstructionResults : Obligations.CurveConstructionResults := by
  intro s rd ra rb
  refine ⟨fun c hc => exec_pinf_of_ok hc, rfl, rfl, fun a b ta tb ha hb =>
    ⟨fun hv hta htb => ?_, fun c hc hta htb h => ?_⟩⟩
  · refine ⟨_, exec_cset_of_ok ha hb hv hta htb, rfl, rfl, rfl, rfl, rfl, rfl, rfl, fun i => ?_⟩
    rw [State.getQ_finish, State.getQ_setUserCurve]; rfl
  · exact exec_pnew_of_ok ha hb hc hta htb (onCurve_of_equation h)

end Sys2Proof.Machine
end

section
/-!
The schedule, the host's windows and BUF (O7, O11, O12, O20; 10_state.md R67-R70; 20_memory.md R100-R108).
-/

namespace Sys2Proof.Machine

variable {s t : State}

/-! ### The schedule -/

/-- The head of the schedule is the step (R620; log entry 3). -/
theorem step_of_schedule {e : Event} {es : List Event} (h : s.schedule = e :: es) :
    step s = State.runEvent { s with schedule := es } e := by
  simp only [step, h]

theorem step_of_schedule_nil (h : s.schedule = []) : step s = s.engineStep := by
  simp only [step, h]

theorem engineStep_of_idle (h : s.pending = none) : s.engineStep = .next s := by
  simp only [State.engineStep, h]

/-- Settles O7: one clause per event, and the engine's step where nothing is scheduled. -/
theorem stepTakesScheduledEvent : Obligations.StepTakesScheduledEvent := by
  refine fun s es => ⟨fun off h => step_of_schedule h, fun off v h => step_of_schedule h, fun h => step_of_schedule h,
    fun h hp => ?_, fun h hp => ?_⟩
  · rw [step_of_schedule h]
    exact engineStep_of_idle (s := { s with schedule := es }) hp
  · rw [step_of_schedule_nil h, engineStep_of_idle hp]

/-! ### The windows of 256-bit values -/

theorem wordOf256_toNat (v : W256) (j : Nat) : (wordOf256 v j).toNat = v.toNat / 2 ^ (32 * j) % 2 ^ 32 :=
  BitVec.toNat_ofNat _ _

theorem wordOf256_zero (j : Nat) : wordOf256 0 j = 0 := by
  simp [wordOf256]

/-- The words of UM, UA, UB and KPUB (R67). -/
theorem placeOf_values : ∀ j < 8,
    placeOf (atOffset (0x040 + 4 * j)) = .um j ∧ placeOf (atOffset (0x060 + 4 * j)) = .ua j ∧
    placeOf (atOffset (0x080 + 4 * j)) = .ub j ∧ placeOf (atOffset (0x0A0 + 4 * j)) = .kpubx j ∧
    placeOf (atOffset (0x0C0 + 4 * j)) = .kpuby j := by
  decide

theorem readAt_rwin (s : State) (i : RegIdx) {j : Nat} (hj : j < 8) :
    s.readAt (0x100 + 0x20 * i.val + 4 * j) = wordOf256 (s.getR i).hostVal j := by
  rw [State.readAt, placeOf_rwin i hj]; rfl

theorem readAt_qx (s : State) (i : RegIdx) {j : Nat} (hj : j < 8) :
    s.readAt (0x400 + 0x80 * i.val + 4 * j) = wordOf256 (s.getQ i).hostX j := by
  rw [State.readAt, placeOf_qwin i (by omega), if_pos hj]; rfl

theorem readAt_qy (s : State) (i : RegIdx) {j : Nat} (hj : j < 8) :
    s.readAt (0x400 + 0x80 * i.val + 0x20 + 4 * j) = wordOf256 (s.getQ i).hostY j := by
  rw [show 0x400 + 0x80 * i.val + 0x20 + 4 * j = 0x400 + 0x80 * i.val + 4 * (8 + j) by omega, State.readAt,
    placeOf_qwin i (by omega), if_neg (by omega), if_pos (by omega), Nat.add_sub_cancel_left]
  rfl

/-- The upper half of a Q register's block is reserved (R69). -/
theorem readAt_qwin_reserved (s : State) (i : RegIdx) {off j : Nat} (h : off = 0x400 + 0x80 * i.val + 4 * j)
    (h1 : 16 ≤ j) (h2 : j < 32) : s.readAt off = 0 := by
  rw [h, State.readAt, placeOf_qwin i h2, if_neg (by omega), if_neg (by omega)]; rfl

/-- The reserved ranges of the map, and everything past it (10_state.md section 7, R104). -/
theorem placeAt_reserved {n : Nat} (h : (9 ≤ n ∧ n < 0x10) ∨ (0x38 ≤ n ∧ n < 0x40) ∨ (0xC0 ≤ n ∧ n < 0x100) ∨
    (0x300 ≤ n ∧ n < 0x400) ∨ 0x800 ≤ n) : placeAt n = .reserved := by
  unfold placeAt qPlace
  repeat' refine ite_eq_iff'.2 ⟨fun _ => ?_, fun _ => ?_⟩
  any_goals rfl
  all_goals omega

/-- Settles O11: each offset of a window names its word, every other offset of the statement a reserved place. -/
theorem windowReads : Obligations.WindowReads := by
  refine fun s => ⟨fun j hj => ⟨fun i => ⟨fun h => ?empty, fun h => ?held, fun c x y h => ?coord, fun h => ?noCoord,
    ?_, ?_⟩, ?values⟩, fun off h => ?reserved, rfl⟩
  case empty => rw [readAt_rwin s i hj, RReg.hostVal, if_pos h, wordOf256_zero]
  case held => rw [readAt_rwin s i hj, wordOf256_toNat, hostVal_toNat, if_neg h]
  case coord =>
    rw [readAt_qx s i hj, readAt_qy s i hj, h]
    exact ⟨wordOf256_toNat x j, wordOf256_toNat y j⟩
  case noCoord =>
    rw [readAt_qx s i hj, readAt_qy s i hj]
    obtain h | ⟨c, h⟩ := h <;> rw [h] <;> exact ⟨wordOf256_zero j, wordOf256_zero j⟩
  · exact readAt_qwin_reserved s i (j := 16 + j) (by omega) (by omega) (by omega)
  · exact readAt_qwin_reserved s i (j := 24 + j) (by omega) (by omega) (by omega)
  case values =>
    obtain ⟨hum, hua, hub, hkx, hky⟩ := placeOf_values j hj
    simp only [State.readAt, hum, hua, hub, hkx, hky, State.portRead, wordOf256_toNat, and_self]
  case reserved =>
    rw [placeOf, placeAt_reserved (by omega)]; rfl

/-! ### The BUF window -/

theorem bufWord_toNat (s : State) (k : Nat) : (s.bufWord k).toNat =
    (s.readByte (4 * k)).toNat + 2 ^ 8 * (s.readByte (4 * k + 1)).toNat
      + 2 ^ 16 * (s.readByte (4 * k + 2)).toNat + 2 ^ 24 * (s.readByte (4 * k + 3)).toNat := by
  have h0 := (s.readByte (4 * k)).isLt
  have h1 := (s.readByte (4 * k + 1)).isLt
  have h2 := (s.readByte (4 * k + 2)).isLt
  have h3 := (s.readByte (4 * k + 3)).isLt
  rw [State.bufWord, BitVec.toNat_ofNat]
  exact Nat.mod_eq_of_lt (by omega)

/-- Lane b of a word is bits 8b+7 to 8b (R107). -/
theorem laneBytes_getD_toNat (v : Word32) {b : Nat} (hb : b < 4) :
    ((laneBytes v).getD b 0).toNat = v.toNat / 2 ^ (8 * b) % 2 ^ 8 := by
  obtain rfl | rfl | rfl | rfl : b = 0 ∨ b = 1 ∨ b = 2 ∨ b = 3 := by omega
  all_goals simp [laneBytes]

/-- `MemWrite` changes BUF alone (R111). -/
theorem memWrite_eq_with_buf (s : State) (addr : Nat) (bs : Bytes) :
    s.memWrite addr bs = { s with buf := (s.memWrite addr bs).buf } := by
  induction bs generalizing s addr with
  | nil => rfl
  | cons b bs ih => exact ih (s.writeByte addr b) (addr + 1)

theorem writeAt_bufw (s : State) {k : Nat} (v : Word32) (hk : k < 1024) (hb : s.busy = false) :
    s.writeAt (0x1000 + 4 * k) v = s.memWrite (4 * k) (laneBytes v) := by
  rw [State.writeAt, State.hostWrite, placeOf_bufw hk]
  exact if_neg (by simp [hb])

/-- Settles O12: an accepted write is a `MemWrite` of the word's four lanes. -/
theorem bufWindowLanes : Obligations.BufWindowLanes := by
  refine fun s k v hk => ⟨?read, fun hb => ?write⟩
  case read => rw [State.readAt, placeOf_bufw hk]; exact bufWord_toNat s k
  case write =>
    rw [writeAt_bufw s v hk hb]
    refine ⟨fun a => ?_, memWrite_eq_with_buf s _ _⟩
    have hlen : (laneBytes v).length = 4 := rfl
    rw [State.readByte_memWrite s (4 * k) (laneBytes v) a (by rw [hlen, Config.bufSize]; omega), hlen]
    split
    · exact laneBytes_getD_toNat v (by omega)
    · rfl

/-! ### BUF's canonical form -/

/-- Of a command's writes only those of SECENC and DERENC touch BUF (R353, R363). -/
theorem CommandWrites.bufOk {key : Prop} {u : State} (h : CommandWrites key s u) (hs : s.BufOk) : u.BufOk := by
  cases h with
  | bytes rd addr bs => exact s.putBytes_wf rd addr bs hs
  | _ => exact hs

theorem bufOk_hostWrite (off : WordOff) (v : Word32) (hs : s.BufOk) : (s.hostWrite off v).BufOk := by
  obtain h | ⟨-, -, h⟩ | ⟨b, h⟩ | h | h | ⟨-, -, h⟩ | ⟨i, x, h⟩ | ⟨a, bs, h⟩ := s.hostWrite_cases off v <;> rw [h]
  pick_goal 8
  · exact s.memWrite_wf a bs hs
  all_goals exact hs

theorem bufOk_engineStep (hs : s.BufOk) (h : s.engineStep = .next t) : t.BufOk := by
  obtain rfl | ⟨-, ⟨e, rfl⟩ | ⟨u, hu, rfl⟩ | ⟨ev, ev', -, rfl⟩⟩ := State.engineStep_answers h
  · exact hs
  · exact hs
  · exact hu.bufOk hs
  · exact hs

/-- Settles O20: every event keeps the form; a power-on reset leaves the empty list. -/
theorem stepKeepsBufCanonical : Obligations.StepKeepsBufCanonical := fun _ _ hs h =>
  step_keeps (Inv := State.BufOk) (fun _ _ hs => hs) (fun _ _ hs => hs) (fun _ off v hs => bufOk_hostWrite off v hs)
    (fun _ _ => rfl) (fun _ _ hs h => bufOk_engineStep hs h) hs h

end Sys2Proof.Machine
end

section
/-!
The SEC and DER parsers, and the commands that read byte strings from BUF or write them there (O50, O51; 43_codec.md
R352-R354, R362-R364; 44_script.md R421; 20_memory.md R111, R112).
-/

namespace Sys2Proof.Machine

/-- Pseudocode that raised at a check, or after it. -/
theorem check_eq_error {ε α : Type} {c : Prop} [Decidable c] {e e' : ε} {x : Except ε α}
    (h : (if c then .error e else x) = .error e') : e' = e ∨ x = .error e' := by
  by_cases hc : c
  · rw [if_pos hc] at h; exact .inl (Except.error.inj h).symm
  · rw [if_neg hc] at h; exact .inr h

/-! ### The SEC parser (R352) -/

theorem secDec_of_marker {b : Byte} (d : Bytes) (h2 : b ≠ 0x02) (h3 : b ≠ 0x03) (h4 : b ≠ 0x04) :
    secDec (b :: d) = .error .cannotParse := by
  have hb : byteAt (b :: d) 0 = b.toNat := rfl
  rw [secDec, if_neg (by simp), hb]
  split
  · next h => exact absurd (BitVec.eq_of_toNat_eq h) h4
  · next h => exact absurd (BitVec.eq_of_toNat_eq h) h2
  · next h => exact absurd (BitVec.eq_of_toNat_eq h) h3
  · rfl

theorem secDec_cons_04 (d : Bytes) : secDec (0x04 :: d) = secDecUncompressed (0x04 :: d) := rfl
theorem secDec_cons_02 (d : Bytes) : secDec (0x02 :: d) = secDecCompressed (0x02 :: d) 0 := rfl
theorem secDec_cons_03 (d : Bytes) : secDec (0x03 :: d) = secDecCompressed (0x03 :: d) 1 := rfl

theorem secDecUncompressed_of_length {d : Bytes} (b : Byte) (h : d.length ≠ 64) :
    secDecUncompressed (b :: d) = .error .cannotParse :=
  if_pos (by simpa using h)

theorem secDecCompressed_of_length {d : Bytes} (b : Byte) (parity : Nat) (h : d.length ≠ 32) :
    secDecCompressed (b :: d) parity = .error .cannotParse :=
  if_pos (by simpa using h)

/-- The curve equation of the integers, with one reduction on each side (R252). -/
theorem onCurve_iff_mod (x y : Nat) (c : Curve) :
    onCurve x y c = true ↔ y ^ 2 % c.m = (x ^ 3 + c.a * x + c.b) % c.m := by
  rw [onCurve_iff, ← ZMod.natCast_eq_natCast_iff']
  push_cast
  rfl

theorem onCurve_secp_iff (x y : Nat) : onCurve x y secp = true ↔ y ^ 2 % Config.P = (x ^ 3 + 7) % Config.P := by
  rw [onCurve_iff_mod]
  change y ^ 2 % Config.P = (x ^ 3 + 0 * x + 7) % Config.P ↔ _
  rw [Nat.zero_mul, Nat.add_zero]

theorem secDecUncompressed_eq {d : Bytes} (b : Byte) (h : d.length = 64) :
    secDecUncompressed (b :: d) =
      if Config.P ≤ intBe (d.take 32) ∨ Config.P ≤ intBe (d.drop 32) then .error .invalidNum
      else if intBe (d.drop 32) ^ 2 % Config.P = (intBe (d.take 32) ^ 3 + 7) % Config.P
        then .ok (intBe (d.take 32), intBe (d.drop 32)) else .error .notOnCurve := by
  have hx : slice (b :: d) 1 33 = d.take 32 := rfl
  have hy : slice (b :: d) 33 65 = d.drop 32 := List.take_of_length_le (by simp [h])
  rw [secDecUncompressed, if_neg (by simp [h]), hx, hy]
  simp only [onCurve_secp_iff, ge_iff_le]

/-- The candidate's exponent is below P - 1, so `fpow` computes the power of R352 as it stands. -/
theorem secRoot_eq (x : Nat) : secRoot x = (x ^ 3 + 7) ^ ((Config.P + 1) / 4) % Config.P := by
  have hP : 1 < Config.P := by decide
  have he : (Config.P + 1) / 4 % (Config.P - 1) = (Config.P + 1) / 4 := by decide
  have h0 : (Config.P + 1) / 4 ≠ 0 := by decide
  have hbase : fadd (fmul (fmul x x Config.P) x Config.P) 7 Config.P = (x ^ 3 + 7) % Config.P := by
    simp [fadd, fmul, Nat.add_mod, Nat.mul_mod, pow_succ]
  rw [secRoot, fpow, if_neg h0, he, modexp_eq _ _ hP, hbase, ← Nat.pow_mod]

/-- The y coordinate of R352: the candidate, or its negative for the other parity. -/
theorem secSelectY_eq (x parity : Nat) :
    secSelectY x parity = if secRoot x % 2 = parity then secRoot x else (Config.P - secRoot x) % Config.P := by
  rw [secSelectY, fsub, Nat.zero_add]

theorem secDecCompressed_eq {d : Bytes} (b : Byte) (parity : Nat) (h : d.length = 32) :
    secDecCompressed (b :: d) parity =
      if Config.P ≤ intBe d then .error .invalidNum
      else if secSelectY (intBe d) parity ^ 2 % Config.P = (intBe d ^ 3 + 7) % Config.P
        then .ok (intBe d, secSelectY (intBe d) parity) else .error .notOnCurve := by
  have hx : slice (b :: d) 1 33 = d := List.take_of_length_le (by simp [h])
  rw [secDecCompressed, if_neg (by simp [h]), hx]
  simp only [onCurve_secp_iff, ge_iff_le]

/-- The marker of the compressed form says the parity. -/
theorem secDec_compressed {d : Bytes} {parity : Nat} (h : parity < 2) :
    secDec ((if parity = 0 then 0x02 else 0x03) :: d) =
      secDecCompressed ((if parity = 0 then 0x02 else 0x03) :: d) parity := by
  obtain rfl | rfl : parity = 0 ∨ parity = 1 := by omega
  · exact secDec_cons_02 d
  · exact secDec_cons_03 d

/-! ### The DER parser (R362) -/

theorem byteAt_drop (d : Bytes) (i k : Nat) : byteAt (d.drop i) k = byteAt d (i + k) := by
  simp [byteAt, List.getD_eq_getElem?_getD]

/-- The second half of the parser reads the rest of the string from its index on. -/
theorem derDecS_eq_drop (d : Bytes) (r i : Nat) : derDecS d r i = derDecS (d.drop i) r 0 := by
  have hlen : ∀ n, i + 2 + n > d.length ↔ 2 + n > d.length - i := by omega
  have hend : ∀ n, i + 2 + n ≠ d.length ↔ 2 + n ≠ d.length - i := by omega
  have hslice : ∀ n, slice (d.drop i) 2 (2 + n) = slice d (i + 2) (i + 2 + n) := fun n => by
    simp [slice, List.drop_drop]
  simp only [derDecS, byteAt_drop, List.length_drop, Nat.zero_add, Nat.add_zero, hslice, hlen, hend, hlen 0]

theorem byte_ofNat_toNat {n : Nat} (h : n < 256) : (BitVec.ofNat 8 n).toNat = n := by
  rw [BitVec.toNat_ofNat]
  exact Nat.mod_eq_of_lt h

theorem byte_eq_ofNat {b : Byte} {n : Nat} (h : b.toNat = n) : b = BitVec.ofNat 8 n := by
  rw [← h, BitVec.ofNat_toNat, BitVec.setWidth_eq]

/-- The second half accepts one integer that ends with the string: a marker, a length and as many bytes (R362). -/
theorem derDecS_eq_ok_iff {e : Bytes} {r r' t : Nat} :
    derDecS e r 0 = .ok (r', t) ↔
      r = r' ∧ ∃ c : Bytes, c.length < 256 ∧ e = [0x02, BitVec.ofNat 8 c.length] ++ c ∧ intBe c = t := by
  constructor
  · intro h
    obtain ⟨hmark, h⟩ := check_eq_ok h
    obtain ⟨-, h⟩ := check_eq_ok h
    obtain ⟨hend, h⟩ := check_eq_ok h
    obtain ⟨hlen, hmark⟩ := not_or.1 hmark
    match e, hlen with
    | b :: l :: c, _ =>
      have hl : l.toNat = c.length := by
        have : 0 + 2 + l.toNat = c.length + 1 + 1 := not_not.1 hend
        omega
      have hc : slice (b :: l :: c) (0 + 2) (0 + 2 + l.toNat) = c := by simp [slice, hl]
      have hb : b = 0x02 := byte_eq_ofNat (not_not.1 hmark)
      obtain ⟨hr, ht⟩ := Prod.mk.inj (Except.ok.inj h)
      refine ⟨hr, c, hl ▸ l.isLt, ?_, ?_⟩
      · rw [hb, byte_eq_ofNat hl]; rfl
      · rw [← ht]; exact congrArg intBe hc.symm
  · rintro ⟨rfl, c, hc, rfl, rfl⟩
    have hl : byteAt ([0x02, BitVec.ofNat 8 c.length] ++ c) (0 + 1) = c.length := byte_ofNat_toNat hc
    have hlen : ([0x02, BitVec.ofNat 8 c.length] ++ c).length = 0 + 2 + c.length := by simp; omega
    rw [derDecS, if_neg (by simp [byteAt]), hl, hlen, if_neg (Nat.lt_irrefl _), if_neg (not_not.2 rfl)]
    simp [slice]

/-- The parser accepts the strings of R362's shape, with the values of their two contents. -/
theorem derDec_eq_ok_iff {d : Bytes} {r t : Nat} :
    derDec d = .ok (r, t) ↔ ∃ cr ct : Bytes, cr.length + ct.length + 4 < 256 ∧
      d = [0x30, BitVec.ofNat 8 (cr.length + ct.length + 4), 0x02, BitVec.ofNat 8 cr.length] ++ cr ++
        ([0x02, BitVec.ofNat 8 ct.length] ++ ct) ∧ intBe cr = r ∧ intBe ct = t := by
  constructor
  · intro h
    obtain ⟨hseq, h⟩ := check_eq_ok h
    obtain ⟨htotal, h⟩ := check_eq_ok h
    obtain ⟨hmark, h⟩ := check_eq_ok h
    obtain ⟨hfit, h⟩ := check_eq_ok h
    obtain ⟨-, hseq⟩ := not_or.1 hseq
    obtain ⟨hlen, hmark⟩ := not_or.1 hmark
    match d, hlen with
    | a :: b :: c :: l :: d, _ =>
      have ha : a = 0x30 := byte_eq_ofNat (not_not.1 hseq)
      have hc : c = 0x02 := byte_eq_ofNat (not_not.1 hmark)
      have hb : b.toNat + 2 = d.length + 1 + 1 + 1 + 1 := not_not.1 htotal
      have hl : (d.take l.toNat).length = l.toNat := by
        have : ¬4 + l.toNat > d.length + 1 + 1 + 1 + 1 := hfit
        rw [List.length_take]
        omega
      have hdrop : (a :: b :: c :: l :: d).drop (4 + byteAt (a :: b :: c :: l :: d) 3) = d.drop l.toNat := by
        rw [Nat.add_comm]; rfl
      have hslice : slice (a :: b :: c :: l :: d) 4 (4 + byteAt (a :: b :: c :: l :: d) 3) = d.take l.toNat := by
        rw [slice, Nat.add_sub_cancel_left]; rfl
      rw [derDecS_eq_drop, hdrop, hslice] at h
      obtain ⟨hr, ct, -, he, ht⟩ := derDecS_eq_ok_iff.1 h
      have htotal : b.toNat = (d.take l.toNat).length + ct.length + 4 := by
        have := congrArg List.length he
        simp only [List.length_drop, List.length_append, List.length_cons, List.length_nil] at this
        omega
      refine ⟨d.take l.toNat, ct, htotal ▸ b.isLt, ?_, hr, ht⟩
      rw [List.append_assoc, ← he, List.take_append_drop, ← byte_eq_ofNat htotal, ← byte_eq_ofNat hl.symm, ha, hc]
      rfl
  · rintro ⟨cr, ct, hlen, hd, rfl, rfl⟩
    have htotal : byteAt d 1 = cr.length + ct.length + 4 := hd ▸ byte_ofNat_toNat hlen
    have hl : byteAt d 3 = cr.length := hd ▸ byte_ofNat_toNat (by omega)
    have hdlen : d.length = cr.length + ct.length + 6 := by simp [hd]; omega
    have hslice : slice d 4 (4 + cr.length) = cr := by simp [slice, hd]
    have hdrop : d.drop (4 + cr.length) = [0x02, BitVec.ofNat 8 ct.length] ++ ct := by
      rw [hd]; exact List.drop_left' (by simp; omega)
    rw [derDec, if_neg (by simp [byteAt, hd]), htotal, hdlen, if_neg (by omega),
      if_neg (by simp [byteAt, hd]), hl, if_neg (by omega), hslice, derDecS_eq_drop, hdrop]
    exact derDecS_eq_ok_iff.2 ⟨rfl, ct, by omega, rfl, rfl⟩

theorem derDecS_error {d : Bytes} {r i : Nat} {e : Err} (h : derDecS d r i = .error e) : e = .cannotParse := by
  obtain he | h := check_eq_error h
  · exact he
  obtain he | h := check_eq_error h
  · exact he
  obtain he | h := check_eq_error h
  · exact he
  cases h

/-- Every way the parser ends without an answer is CANNOT_PARSE (R362). -/
theorem derDec_error {d : Bytes} {e : Err} (h : derDec d = .error e) : e = .cannotParse := by
  obtain he | h := check_eq_error h
  · exact he
  obtain he | h := check_eq_error h
  · exact he
  obtain he | h := check_eq_error h
  · exact he
  obtain he | h := check_eq_error h
  · exact he
  exact derDecS_error h

/-! ### The commands that read a byte string from BUF -/

variable {s : State} {rd ra rb rc : RegIdx}

theorem memRead_getD (s : State) (addr : Nat) {j n : Nat} (hj : j < n) :
    (s.memRead addr n).getD j 0 = s.readByte (addr + j) := by
  induction n generalizing addr j with
  | zero => omega
  | succ n ih =>
    cases j with
    | zero => rfl
    | succ j => rw [State.memRead, List.getD_cons_succ, ih (addr + 1) (by omega), Nat.add_right_comm, Nat.add_assoc]

/-- The first lines of SECDEC, DERDEC and SPARSE: address, length, range check, the bytes (R354, R364, R421). -/
def State.bytesOperand (s : State) (ra rb : RegIdx) : Except Err Bytes := do
  let addr ← s.rint ra
  let n ← s.rint rb
  rangeCheck addr n
  .ok (s.memRead addr n)

theorem bytesOperand_of_ok {addr n : Nat} (ha : s.rint ra = .ok addr) (hn : s.rint rb = .ok n) (hfit : addr + n ≤ 4096) :
    s.bytesOperand ra rb = .ok (s.memRead addr n) := by
  simp [State.bytesOperand, ha, hn, rangeCheck_of_le (show addr + n ≤ Config.bufSize from hfit)]

theorem bytesOperand_of_range {addr n : Nat} (ha : s.rint ra = .ok addr) (hn : s.rint rb = .ok n)
    (hout : 4096 < addr + n) : s.bytesOperand ra rb = .error .bufRange := by
  simp [State.bytesOperand, ha, hn, rangeCheck_of_gt (show Config.bufSize < addr + n from hout)]

theorem exec_secdec_eq : exec (.secdec rd ra rb) s = s.command (s.bytesOperand ra rb >>= fun d =>
    secDec d >>= fun p => .ok (s.setQ rd (.coord .secp (toW p.1) (toW p.2)))) := by
  simp only [State.bytesOperand, bind_assoc, ok_bind]; rfl

theorem exec_derdec_eq (h : rd ≠ rc) : exec (.derdec rd ra rb rc) s = s.command (s.bytesOperand ra rb >>= fun d =>
    derDec d >>= fun p => if p.1 ≥ 2 ^ 256 ∨ p.2 ≥ 2 ^ 256 then .error .capacity
      else .ok ((s.setInt rd p.1).setInt rc p.2)) := by
  simp only [State.bytesOperand, bind_assoc, ok_bind, exec, execDerdec, if_neg h]

/-- Equal destinations are an illegal word (R147). -/
theorem exec_derdec_same : exec (.derdec rd ra rb rd) s = .next (s.fail .illegalCmd) := by
  simp [exec, execDerdec, State.command_next]

theorem exec_sparse_eq : exec (.sparse rd ra rb) s = s.command (s.bytesOperand ra rb >>= fun d =>
    parseScript d >>= fun cs => .ok (s.setInt rd cs.length)) := by
  simp only [State.bytesOperand, bind_assoc, ok_bind]; rfl

/-- Settles O50: with the bytes read, each command is its parser and its write. -/
theorem decoderResults : Obligations.DecoderResults := by
  intro s rd ra rb rc addr n ha hn hfit
  have hd := bytesOperand_of_ok ha hn hfit
  refine ⟨fun j hj => memRead_getD s addr hj, fun x y h => ?secdec, fun r x hne h hr hx => ?derdec, fun cs h => ?sparse⟩
  case secdec => rw [exec_secdec_eq, hd, ok_bind, h]; rfl
  case derdec =>
    rw [exec_derdec_eq hne, hd, ok_bind, h, ok_bind, if_neg (not_or.2 ⟨Nat.not_le.2 hr, Nat.not_le.2 hx⟩)]; rfl
  case sparse => rw [exec_sparse_eq, hd, ok_bind, h]; rfl

/-- A command that reads its bytes first reports the errors of that read before any other (R506). -/
theorem exec_decoder_of_error {i : Instr} {e : Err} (hne : rd ≠ rc)
    (hi : i ∈ [Instr.secdec rd ra rb, .derdec rd ra rb rc, .sparse rd ra rb]) (h : s.bytesOperand ra rb = .error e) :
    exec i s = .next (s.fail e) := by
  simp only [List.mem_cons, List.not_mem_nil, or_false] at hi
  obtain rfl | rfl | rfl := hi
  · rw [exec_secdec_eq, h]; rfl
  · rw [exec_derdec_eq hne, h]; rfl
  · rw [exec_sparse_eq, h]; rfl

/-- Settles O51: the parsers' outcomes, then the errors of each command in the order of its lines (R506). -/
theorem codecErrors : Obligations.CodecErrors := by
  refine ⟨⟨rfl, fun b d h2 h3 h4 => secDec_of_marker d h2 h3 h4, fun d => secDecUncompressed_of_length 0x04,
    fun d h => ⟨secDecCompressed_of_length 0x02 0 h, secDecCompressed_of_length 0x03 1 h⟩, ?uncompressed, ?compressed⟩,
    ⟨fun d r t => derDec_eq_ok_iff, fun d e => derDec_error⟩,
    fun s rd ra rb rc => ⟨?same, fun hne i hi => ⟨fun e he => ?_, fun addr e ha he => ?_, fun addr n ha hn hout => ?_⟩,
      fun addr n ha hn hfit => ?parse, fun form => ?secenc, fun e he => ?_, fun r e hr he => ?_,
      fun r x e hr hx he => ?_, fun r x addr hr hx ha hout => ?_⟩⟩
  case uncompressed =>
    rintro d x y h rfl rfl
    exact secDecUncompressed_eq 0x04 h
  case compressed =>
    rintro d x h rfl
    refine ⟨fun hx => ⟨?_, ?_⟩, ?_⟩
    · rw [secDec_cons_02, secDecCompressed_eq _ _ h, if_pos hx]
    · rw [secDec_cons_03, secDecCompressed_eq _ _ h, if_pos hx]
    · rintro yc parity y hx rfl hparity rfl
      rw [secDec_compressed hparity, secDecCompressed_eq _ _ h, if_neg (Nat.not_le.2 hx), secSelectY_eq, secRoot_eq]
  case same => rintro rfl; exact exec_derdec_same
  · exact exec_decoder_of_error hne hi (by rw [State.bytesOperand, he]; rfl)
  · exact exec_decoder_of_error hne hi (by rw [State.bytesOperand, ha, ok_bind, he]; rfl)
  · exact exec_decoder_of_error hne hi (bytesOperand_of_range ha hn hout)
  case parse =>
    have hd := bytesOperand_of_ok ha hn hfit
    refine ⟨fun e he => ?_, fun e he => ?_, fun hne => ⟨fun e he => ?_, fun r x h hcap => ?_⟩⟩
    · rw [exec_secdec_eq, hd, ok_bind, he]; rfl
    · rw [exec_sparse_eq, hd, ok_bind, he]; rfl
    · rw [exec_derdec_eq hne, hd, ok_bind, he]; rfl
    · rw [exec_derdec_eq hne, hd, ok_bind, h, ok_bind, if_pos hcap]; rfl
  case secenc =>
    refine ⟨fun e he => ?_, fun x e hx he => ?_, fun p c addr hp ha => ⟨fun hc => ?_, fun hc hout => ?_⟩⟩
    · simp [exec, execSecenc, State.command_next, he]
    · simp [exec, execSecenc, State.command_next, hx, he]
    · simp [exec, execSecenc, State.command_next, hp, ha, hc]
    · simp [exec, execSecenc, State.command_next, hp, ha, hc, rangeCheck_of_gt (show Config.bufSize < _ from hout)]
  · simp [exec, execDerenc, State.command_next, he]
  · simp [exec, execDerenc, State.command_next, hr, he]
  · simp [exec, execDerenc, State.command_next, hr, hx, he]
  · simp [exec, execDerenc, State.command_next, hr, hx, ha, rangeCheck_of_gt (show Config.bufSize < _ from hout)]

end Sys2Proof.Machine
end

section
/-!
The two encodings (O1 to O5; 30_encoding.md R140-R148, R160-R163), and the errors of the ECDSA unit (O44; 42_ecdsa.md
R301-R305): the code of a command is the word of its fields, with 0 in every field its format does not use; a script
command is read back from its bytes and from nothing else.
-/

namespace Sys2Proof

open Machine

/-! ### Decoding an instruction's code -/

theorem decode_cmdCode (opc : Fin 256) (rd ra rb rc re mode : RegIdx) :
    decode (cmdCode opc rd ra rb rc re mode) = decodeFields { opc, rd, ra, rb, rc, re, mode } :=
  congrArg decodeFields (fieldsOf_wordOf _)

theorem decode_script_bytes (c : ScriptCmd) (h : c.wellFormed = true) : decode (.script c.bytes) = .ok c.toInstr := by
  have hd := decodeScriptCmd_bytes c [] h
  rw [List.append_nil] at hd
  rw [decode, hd]

theorem decode_encode (i : Instr) (h : i.wellFormed = true) : decode (encode i) = .ok i := by
  cases i
  -- the commands with a MODE
  case fnew m | fred m => exact (decode_cmdCode ..).trans (congrArg (Except.map _) (fieldMode_mode m))
  case pnew m | pinf m => exact (decode_cmdCode ..).trans (congrArg (Except.map _) (curveMode_mode m))
  case secenc m => exact (decode_cmdCode ..).trans (congrArg (Except.map _) (formMode_mode m))
  -- the commands with two destinations
  case sign | derdec => exact (decode_cmdCode ..).trans (if_neg (of_decide_eq_true h))
  -- the script commands
  case push d => exact decode_script_bytes (.push d) h
  case opDup => exact decode_script_bytes (.op .dup) rfl
  case opEqual => exact decode_script_bytes (.op .equal) rfl
  case opEqualverify => exact decode_script_bytes (.op .equalverify) rfl
  case opHash160 => exact decode_script_bytes (.op .hash160) rfl
  case opChecksig => exact decode_script_bytes (.op .checksig) rfl
  -- every other command
  all_goals exact decode_cmdCode ..

/-- Settles O1: the decoder reads back the fields of the word, or the script command of the bytes. -/
theorem decodeInvertsEncode : Obligations.DecodeInvertsEncode := decode_encode

/-! ### Words that decode (R141, R142, R146) -/

/-- The fields with 0 in every one the format does not use, and with the given opcode (R142). -/
def Format.keep (fmt : Format) (opc : Fin 256) (f : Fields) : Fields :=
  match fmt with
  | .N => ⟨opc, 0, 0, 0, 0, 0, 0⟩
  | .D => ⟨opc, f.rd, 0, 0, 0, 0, 0⟩
  | .A => ⟨opc, 0, f.ra, 0, 0, 0, 0⟩
  | .AB => ⟨opc, 0, f.ra, f.rb, 0, 0, 0⟩
  | .DA => ⟨opc, f.rd, f.ra, 0, 0, 0, 0⟩
  | .DM => ⟨opc, f.rd, 0, 0, 0, 0, f.mode⟩
  | .DAB => ⟨opc, f.rd, f.ra, f.rb, 0, 0, 0⟩
  | .DAM => ⟨opc, f.rd, f.ra, 0, 0, 0, f.mode⟩
  | .DABM => ⟨opc, f.rd, f.ra, f.rb, 0, 0, f.mode⟩
  | .DABC => ⟨opc, f.rd, f.ra, f.rb, f.rc, 0, 0⟩
  | .DABCE => ⟨opc, f.rd, f.ra, f.rb, f.rc, f.re, 0⟩
  | .DABCEM => ⟨opc, f.rd, f.ra, f.rb, f.rc, f.re, f.mode⟩

theorem Format.keep_of_unusedZero {fmt : Format} {opc : Fin 256} {f : Fields} (ho : f.opc.val = opc.val)
    (h : unusedZero fmt f = true) : fmt.keep opc f = f := by
  obtain ⟨o, rd, ra, rb, rc, re, m⟩ := f
  obtain rfl : o = opc := Fin.ext ho
  cases fmt <;> simp_all [unusedZero, Format.keep]

/-- What a word in a format decodes to has that word for its code, if it has the code of the fields the format keeps. -/
theorem encode_of_inFormat {fmt : Format} {f : Fields} {k : Except Reject Instr} {i : Instr} {opc : Fin 256}
    (hk : k = .ok i → i.wellFormed = true ∧ encode i = .cmd (wordOf (fmt.keep opc f))) (ho : f.opc.val = opc.val)
    (h : inFormat fmt f k = .ok i) : i.wellFormed = true ∧ encode i = .cmd (wordOf f) := by
  obtain ⟨hu, h⟩ := test_eq_ok h
  rw [← Format.keep_of_unusedZero ho hu]
  exact hk h

theorem encode_of_inFormat_ok {fmt : Format} {f : Fields} {i j : Instr} {opc : Fin 256} (hw : j.wellFormed = true)
    (he : encode j = .cmd (wordOf (fmt.keep opc f))) (ho : f.opc.val = opc.val) (h : inFormat fmt f (.ok j) = .ok i) :
    i.wellFormed = true ∧ encode i = .cmd (wordOf f) :=
  encode_of_inFormat (fun hk => Except.ok.inj hk ▸ ⟨hw, he⟩) ho h

/-- A command whose MODE is read by `dec` and written by `enc` (R144). -/
theorem encode_of_inFormat_mode {α : Type} {dec : RegIdx → Except Reject α} {enc : α → RegIdx} {g : α → Instr}
    {fmt : Format} {f : Fields} {i : Instr} {opc : Fin 256}
    (hdec : ∀ {m a}, dec m = .ok a → m = enc a) (hw : ∀ a, (g a).wellFormed = true)
    (he : ∀ a, encode (g a) = .cmd (wordOf (fmt.keep opc { f with mode := enc a }))) (ho : f.opc.val = opc.val)
    (h : inFormat fmt f ((dec f.mode).map g) = .ok i) : i.wellFormed = true ∧ encode i = .cmd (wordOf f) := by
  refine encode_of_inFormat (fun hk => ?_) ho h
  cases hm : dec f.mode with
  | error e => rw [hm] at hk; cases hk
  | ok a =>
    rw [hm] at hk
    obtain rfl := Except.ok.inj hk
    exact ⟨hw a, by rw [he, ← hdec hm]⟩

/-- A command whose destinations must differ (R147 items 4 and 5). -/
theorem encode_of_inFormat_ne {p : Prop} [Decidable p] {fmt : Format} {f : Fields} {i j : Instr} {e : Reject}
    {opc : Fin 256} (hw : ¬p → j.wellFormed = true) (he : encode j = .cmd (wordOf (fmt.keep opc f)))
    (ho : f.opc.val = opc.val) (h : inFormat fmt f (if p then .error e else .ok j) = .ok i) :
    i.wellFormed = true ∧ encode i = .cmd (wordOf f) := by
  refine encode_of_inFormat (fun hk => ?_) ho h
  obtain ⟨hp, hk⟩ := check_eq_ok hk
  exact Except.ok.inj hk ▸ ⟨hw hp, he⟩

/-- A word that decodes is the code of a well-formed instruction (R142, R146). -/
theorem encode_of_decodeFields {f : Fields} {i : Instr} (h : decodeFields f = .ok i) :
    i.wellFormed = true ∧ encode i = .cmd (wordOf f) := by
  unfold decodeFields at h
  split at h
  -- FNEW, FRED
  case h_7 ho | h_8 ho => exact encode_of_inFormat_mode fieldMode_ok (fun _ => rfl) (fun _ => rfl) ho h
  -- PNEW, PINF
  case h_16 ho | h_17 ho => exact encode_of_inFormat_mode curveMode_ok (fun _ => rfl) (fun _ => rfl) ho h
  -- SECENC
  case h_24 ho => exact encode_of_inFormat_mode formMode_ok (fun _ => rfl) (fun _ => rfl) ho h
  -- SIGN, DERDEC
  case h_22 ho | h_27 ho => exact encode_of_inFormat_ne decide_eq_true rfl ho h
  -- the reserved opcodes
  case h_30 => cases h
  -- the commands that every word in their format encodes
  all_goals exact encode_of_inFormat_ok rfl rfl ‹f.opc.val = _› h

/-! ### Script byte strings that decode (R160-R162) -/

/-- What is read from the front of a byte string are the bytes of a well-formed script command. -/
theorem decodeScriptCmd_ok {d rest : Bytes} {c : ScriptCmd} (h : decodeScriptCmd d = .ok (c, rest)) :
    c.wellFormed = true ∧ d = c.bytes ++ rest := by
  cases d with
  | nil => cases h
  | cons b d =>
    rw [decodeScriptCmd] at h
    split at h
    case isTrue hb =>
      obtain ⟨hl, h⟩ := check_eq_ok h
      cases h
      have hlen : (d.take b.toNat).length = b.toNat := by simpa using hl
      simp [ScriptCmd.wellFormed, ScriptCmd.bytes, hlen, hb]
    case isFalse =>
      split at h <;> cases h <;> exact ⟨rfl, congrArg (· :: rest) (BitVec.eq_of_toNat_eq ‹b.toNat = _›)⟩

theorem encode_toInstr (c : ScriptCmd) : encode c.toInstr = .script c.bytes := by
  cases c with
  | push d => rfl
  | op o => cases o <;> rfl

theorem wellFormed_toInstr (c : ScriptCmd) : c.toInstr.wellFormed = c.wellFormed := by
  cases c with
  | push d => rfl
  | op o => cases o <;> rfl

/-- A script code is exactly one script command. -/
theorem decode_script_ok {d : Bytes} {i : Instr} (h : decode (.script d) = .ok i) :
    ∃ c : ScriptCmd, decodeScriptCmd d = .ok (c, []) ∧ i = c.toInstr := by
  rw [decode] at h
  split at h <;> cases h
  exact ⟨_, ‹_›, rfl⟩

/-- Settles O2: a word is the word of its own fields, and a script byte string the bytes of the command read from it. -/
theorem encodeInvertsDecode : Obligations.EncodeInvertsDecode := by
  rintro (w | d) i h
  case cmd => simpa using encode_of_decodeFields h
  case script =>
    obtain ⟨c, hc, rfl⟩ := decode_script_ok h
    obtain ⟨hw, rfl⟩ := decodeScriptCmd_ok hc
    rw [wellFormed_toInstr, encode_toInstr, List.append_nil]
    exact ⟨hw, rfl⟩

/-! ### Illegal words (R147) -/

/-- The bits of the fields the format does not use, as ranges hi:lo (R142). -/
def Format.unusedBits : Format → List (Nat × Nat)
  | .N => [(31, 8)]
  | .D => [(31, 12)]
  | .A => [(31, 16), (11, 8)]
  | .AB => [(31, 20), (11, 8)]
  | .DA => [(31, 16)]
  | .DM => [(27, 12)]
  | .DAB => [(31, 20)]
  | .DAM => [(27, 16)]
  | .DABM => [(27, 20)]
  | .DABC => [(31, 24)]
  | .DABCE => [(31, 28)]
  | .DABCEM => []

theorem nibble_eq_bitsOf (w : Word32) (lo : Nat) : (nibble w lo).val = bitsOf w (lo + 3) lo := by
  simp [nibble, bitsOf, Fin.ofNat, show lo + 3 + 1 - lo = 4 by omega]

theorem opc_eq_bitsOf (w : Word32) : (fieldsOf w).opc.val = bitsOf w 7 0 := by
  simp [fieldsOf, bitsOf, Fin.ofNat]

theorem unusedZero_fieldsOf_eq_false_iff (fmt : Format) (w : Word32) :
    unusedZero fmt (fieldsOf w) = false ↔ ∃ r ∈ fmt.unusedBits, bitsOf w r.1 r.2 ≠ 0 := by
  have := w.isLt
  cases fmt <;> simp [unusedZero, Format.unusedBits, fieldsOf, Fin.ext_iff, nibble, bitsOf] <;> omega

theorem inFormat_error_iff (fmt : Format) (w : Word32) (k : Except Reject Instr) :
    (∃ e, inFormat fmt (fieldsOf w) k = .error e) ↔
      (∃ r ∈ fmt.unusedBits, bitsOf w r.1 r.2 ≠ 0) ∨ ∃ e, k = .error e := by
  rw [← unusedZero_fieldsOf_eq_false_iff, inFormat]
  split <;> simp [*]

theorem map_error_iff {ε α β : Type} (x : Except ε α) (g : α → β) : (∃ e, x.map g = .error e) ↔ ∃ e, x = .error e := by
  cases x <;> simp [Except.map]

/-- A check of `p` before an answer raises exactly when `p` holds. -/
theorem check_error_iff {ε α : Type} (p : Prop) [Decidable p] (e : ε) (a : α) :
    (∃ e', (if p then .error e else .ok a : Except ε α) = .error e') ↔ p := by
  split <;> simp [*]

theorem fieldMode_error_iff : ∀ m : RegIdx, (∃ e, fieldMode m = .error e) ↔ 3 ≤ m.val
  | 0 | 1 | 2 | ⟨_ + 3, _⟩ => by simp [fieldMode]

theorem curveMode_error_iff : ∀ m : RegIdx, (∃ e, curveMode m = .error e) ↔ 2 ≤ m.val
  | 0 | 1 | ⟨_ + 2, _⟩ => by simp [curveMode]

theorem formMode_error_iff : ∀ m : RegIdx, (∃ e, formMode m = .error e) ↔ 2 ≤ m.val
  | 0 | 1 | ⟨_ + 2, _⟩ => by simp [formMode]

/-- Each opcode rejects what its format does not use, and what its MODE or its destinations rule out (R147, R148). -/
theorem decodeCmd_error_iff (w : Word32) : (∃ e, decodeCmd w = .error e) ↔ IllegalWord w := by
  have hrd : (fieldsOf w).rd.val = bitsOf w 11 8 := nibble_eq_bitsOf w 8
  have hrb : (fieldsOf w).rb.val = bitsOf w 19 16 := nibble_eq_bitsOf w 16
  have hrc : (fieldsOf w).rc.val = bitsOf w 23 20 := nibble_eq_bitsOf w 20
  have hmode : (fieldsOf w).mode.val = bitsOf w 31 28 := nibble_eq_bitsOf w 28
  unfold decodeCmd decodeFields
  split
  -- the reserved opcodes
  case h_30 =>
    simp only [imp_false, opc_eq_bitsOf] at *
    have := (fieldsOf w).opc.isLt
    rw [opc_eq_bitsOf] at this
    exact iff_of_true ⟨_, rfl⟩ (.inl (by unfold reservedOpc; omega))
  -- an opcode of R146: its format's unused bits, and its MODE or destination condition where it has one
  all_goals
    have ho := (opc_eq_bitsOf w).symm.trans ‹(fieldsOf w).opc.val = _›
    simp [ho, hrd, hrb, hrc, hmode, Fin.ext_iff, inFormat_error_iff, Format.unusedBits, map_error_iff,
      fieldMode_error_iff, curveMode_error_iff, formMode_error_iff, check_error_iff, IllegalWord, reservedOpc,
      unusedNonzero]

theorem engineStep_of_decode_error {s : State} {w : Word32} {e : Reject} (h : decodeCmd w = .error e)
    (hp : s.pending = some w) (he : s.eval = none) : s.engineStep = .next (s.fail .illegalCmd) := by
  simp only [State.engineStep, hp, he, State.runPending, h, State.command_next, State.complete_error]

/-- Settles O3: the decoder's branches, one by one; NOP's only word by `encodeInvertsDecode`. -/
theorem illegalWordsRaiseIllegalCmd : Obligations.IllegalWordsRaiseIllegalCmd := by
  intro w
  refine ⟨decodeCmd_error_iff w, ⟨fun h => ?_, fun h => h ▸ decode_encode .nop rfl⟩, fun s hw hp he => ?_⟩
  · exact (Code.cmd.inj (encodeInvertsDecode (.cmd w) .nop h).2).symm
  · obtain ⟨e, h⟩ := (decodeCmd_error_iff w).2 hw
    rw [engineStep_of_decode_error h hp he]
    simp [State.fail, State.finish, Err.isFatal]

/-! ### The first byte of a script command (R160-R163, R402) -/

theorem decodeScriptCmd_push {b : Byte} {rest : Bytes} (h1 : 1 ≤ b.toNat) (h2 : b.toNat ≤ 0x4B) :
    decodeScriptCmd (b :: rest) = if rest.length < b.toNat then .error .truncatedPush
      else .ok (.push (rest.take b.toNat), rest.drop b.toNat) :=
  if_pos ⟨h1, h2⟩

/-- A byte that is neither a push prefix nor an opcode byte begins no script command. -/
theorem decodeScriptCmd_invalid {b : Byte} (rest : Bytes) (h : ¬(1 ≤ b.toNat ∧ b.toNat ≤ 0x4B))
    (hop : ∀ o : ScriptOp, b ≠ o.byte) : decodeScriptCmd (b :: rest) = .error .invalidOpcode := by
  refine (if_neg h).trans ?_
  split
  · exact absurd (BitVec.eq_of_toNat_eq ‹_›) (hop .dup)
  · exact absurd (BitVec.eq_of_toNat_eq ‹_›) (hop .equal)
  · exact absurd (BitVec.eq_of_toNat_eq ‹_›) (hop .equalverify)
  · exact absurd (BitVec.eq_of_toNat_eq ‹_›) (hop .hash160)
  · exact absurd (BitVec.eq_of_toNat_eq ‹_›) (hop .checksig)
  · rfl

/-- Where no script command can be read, parsing ends with its error (R402). -/
theorem parseScript_of_error {b : Byte} {rest : Bytes} {e : Reject} (h : decodeScriptCmd (b :: rest) = .error e) :
    parseScript (b :: rest) = .error (parseErr e) := by
  simp only [parseScript, List.length_cons, parseLoop, h]

/-- Settles O4. An opcode command is read back from its bytes; every invalid byte differs from the five opcode bytes. -/
theorem scriptFirstByteDecides : Obligations.ScriptFirstByteDecides := by
  intro b rest
  refine ⟨fun h1 h2 hl => ?_, fun h1 h2 hl => ?_, decodeScriptCmd_bytes (.op .dup) rest rfl,
    decodeScriptCmd_bytes (.op .equal) rest rfl, decodeScriptCmd_bytes (.op .equalverify) rest rfl,
    decodeScriptCmd_bytes (.op .hash160) rest rfl, decodeScriptCmd_bytes (.op .checksig) rest rfl, fun h => ?_⟩
  · rw [decodeScriptCmd_push h1 h2, if_neg (Nat.not_lt.2 hl)]
  · exact parseScript_of_error ((decodeScriptCmd_push h1 h2).trans (if_pos hl))
  · refine parseScript_of_error (decodeScriptCmd_invalid rest (by omega) fun o => ?_)
    rintro rfl
    revert h
    cases o <;> decide

/-- Settles O5: the decoder is run on the fifteen codes. -/
theorem exampleWordsDecode : Obligations.ExampleWordsDecode := by
  unfold Obligations.ExampleWordsDecode
  decide

end Sys2Proof

namespace Sys2Proof.Machine

/-! ### The errors of the ECDSA unit, in the order of the commands' lines (R301, R302, R305, R506) -/

/-- Settles O44: each command's pseudocode ends at the line that raises. -/
theorem ecdsaErrors : Obligations.EcdsaErrors := by
  intro s rd ra rb rc re
  refine ⟨fun e h => ?_, fun k hk h => ?_, fun h => ?_, fun hne => ⟨fun e h => ?_, fun z hz h => ?_⟩, fun e h => ?_,
    fun p c hp => ⟨fun e h => ?_, fun z e hz h => ?_, fun z r e hz hr h => ?_, fun z r x hz hr hx h => ?_⟩⟩
  · simp [exec, execKload, State.command_next, h]
  · simp [exec, execKload, State.command_next, hk, h]
  · simp [exec, execSign, State.command_next, h]
  · simp [exec, execSign, State.command_next, hne, h]
  · simp [exec, execSign, State.command_next, hne, hz, h]
  · simp [exec, execVerify, State.command_next, h]
  · simp [exec, execVerify, State.command_next, hp, h]
  · simp [exec, execVerify, State.command_next, hp, hz, h]
  · simp [exec, execVerify, State.command_next, hp, hz, hr, h]
  · simp [exec, execVerify, State.command_next, hp, hz, hr, hx, h]

end Sys2Proof.Machine
end

section
/-!
The frames of NOP, MSET and CSET (O28; 10_state.md R46-R48, 40_field.md R202, 41_curve.md R251).
-/

namespace Sys2Proof.Machine

variable {s t : State} {ra rb : RegIdx}

/-! ### What the loops of R202 and R251 keep -/

theorem clearIfFU_of_ne {x : RReg} (h : x.tag ≠ .field .user) : clearIfFU x = x := if_neg h

theorem clearIfUser_of_ne {x : QReg} (hc : ∀ a b, x ≠ .coord .user a b) (hi : x ≠ .inf .user) :
    clearIfUser x = x := by
  cases x with
  | empty => rfl
  | inf c =>
    cases c with
    | secp => rfl
    | user => exact absurd rfl hi
  | coord c a b =>
    cases c with
    | secp => rfl
    | user => exact absurd rfl (hc a b)

/-- Every Q register that is not a USER point is unchanged. -/
def KeepsOtherPoints (s t : State) : Prop :=
  ∀ i, (∀ x y, s.getQ i ≠ .coord .user x y) → s.getQ i ≠ .inf .user → t.getQ i = s.getQ i

theorem keepsOtherPoints_of_clear (h : ∀ i, t.getQ i = clearIfUser (s.getQ i)) : KeepsOtherPoints s t :=
  fun i hc hi => (h i).trans (clearIfUser_of_ne hc hi)

/-! ### NOP, MSET, CSET -/

theorem execNop_frame (h : execNop s = .next t) : CommandFrame [] [] s t := by
  obtain rfl := execNop_cases h
  exact commandFrame_finish_registers (fun _ _ => rfl) fun _ _ => rfl

/-- MSET clears FU registers and USER points, and writes the user field and the user curve (R202). -/
theorem execMset_frame (h : execMset ra s = .next t) :
    (∀ i, (s.getR i).tag ≠ .field .user → t.getR i = s.getR i) ∧ KeepsOtherPoints s t ∧
      SameBytes s t ∧ SameKey s t ∧ SameControl s t ∧ Completed s t := by
  obtain ⟨v, -, -, rfl⟩ | ⟨e, rfl⟩ := execMset_cases h
  · exact ⟨fun i hi => (s.getR_setUserModulus v i).trans (clearIfFU_of_ne hi),
      keepsOtherPoints_of_clear (s.getQ_setUserModulus v), fun _ => rfl, ⟨rfl, rfl, rfl, rfl⟩,
      ⟨rfl, rfl, rfl, rfl, rfl, rfl, rfl⟩, rfl, rfl, rfl, .inl ⟨rfl, rfl, rfl⟩⟩
  · obtain ⟨-, -, hb, -, hk, hc, hd⟩ := commandFrame_fail [] [] s e
    exact ⟨fun _ _ => rfl, fun _ _ _ => rfl, hb, hk, hc, hd⟩

/-- CSET clears USER points and writes the user curve (R251). -/
theorem execCset_frame (h : execCset ra rb s = .next t) :
    OnlyRegs [] s t ∧ KeepsOtherPoints s t ∧ t.umv = s.umv ∧ t.um = s.um ∧
      SameBytes s t ∧ SameKey s t ∧ SameControl s t ∧ Completed s t := by
  obtain ⟨a, b, _, _, -, -, -, -, -, rfl⟩ | ⟨e, rfl⟩ := execCset_cases h
  · exact ⟨fun _ _ => rfl, keepsOtherPoints_of_clear (s.getQ_setUserCurve a b), rfl, rfl, fun _ => rfl,
      ⟨rfl, rfl, rfl, rfl⟩, ⟨rfl, rfl, rfl, rfl, rfl, rfl, rfl⟩, rfl, rfl, rfl, .inl ⟨rfl, rfl, rfl⟩⟩
  · obtain ⟨hr, -, hb, ⟨humv, hum, -⟩, hk, hc, hd⟩ := commandFrame_fail [] [] s e
    exact ⟨hr, fun _ _ _ => rfl, humv, hum, hb, hk, hc, hd⟩

/-- Settles O28: one frame per command. -/
theorem frameNopMsetCset : Obligations.FrameNopMsetCset :=
  fun _ _ _ _ => ⟨execNop_frame, execMset_frame, execCset_frame⟩

end Sys2Proof.Machine
end

section
/-!
The field unit's results (O34; 40_field.md R205-R213) and errors (O35; R201-R205, 60_exceptions.md R506).
-/

namespace Sys2Proof.Machine

variable {s : State} {rd ra rb : RegIdx}

/-! ### `readPair()` line by line (R205) -/

theorem readPair_of_ok {a b : Nat} {ta tb : FieldSel} (ha : s.rfield ra = .ok (a, ta)) (hb : s.rfield rb = .ok (b, tb))
    (h : s.fieldOf ta = s.fieldOf tb) : s.readPair ra rb = .ok { a, b, t := ta, m := s.fieldOf ta } := by
  obtain ⟨hta, rfl⟩ := State.rfield_ok ha
  obtain ⟨htb, rfl⟩ := State.rfield_ok hb
  exact State.readPair_of_tags hta htb h

theorem readPair_first_error {e : Err} (ha : s.rfield ra = .error e) : s.readPair ra rb = .error e := by
  simp [State.readPair, ha]

theorem readPair_second_error {x : Nat × FieldSel} {e : Err} (ha : s.rfield ra = .ok x) (hb : s.rfield rb = .error e) :
    s.readPair ra rb = .error e := by
  simp [State.readPair, ha, hb]

theorem readPair_mismatch {a b : Nat} {ta tb : FieldSel} (ha : s.rfield ra = .ok (a, ta))
    (hb : s.rfield rb = .ok (b, tb)) (h : s.fieldOf ta ≠ s.fieldOf tb) : s.readPair ra rb = .error .fieldMismatch := by
  simp [State.readPair, ha, hb, h]

/-! ### Division and powers over the integers (R209, R210) -/

theorem fdiv_zero (a m : Nat) : fdiv a 0 m = .error .divisionByZero := if_pos rfl

theorem fdiv_of_ne_zero (a : Nat) {b m : Nat} (hm : 1 < m) (hb : b ≠ 0) : fdiv a b m = .ok (a * b ^ (m - 2) % m) := by
  rw [fdiv_eq a b hm, if_neg hb, Nat.mul_mod_mod]

theorem fpow_eq (a e : Nat) {m : Nat} (hm : 1 < m) : fpow a e m = if e = 0 then 1 else a ^ (e % (m - 1)) % m := by
  rw [fpow, modexp_eq a _ hm]

/-! ### The commands on a pair of operands (R206-R208, R211) -/

section Pair
variable {p : FieldPair} (hp : s.readPair ra rb = .ok p)
include hp

theorem exec_fadd_of_pair : exec (.fadd rd ra rb) s = .next (s.setR rd (.field p.t) (toW (fadd p.a p.b p.m))).finish := by
  simp [exec, execFadd, State.command_next, hp]

theorem exec_fsub_of_pair : exec (.fsub rd ra rb) s = .next (s.setR rd (.field p.t) (toW (fsub p.a p.b p.m))).finish := by
  simp [exec, execFsub, State.command_next, hp]

theorem exec_fmul_of_pair : exec (.fmul rd ra rb) s = .next (s.setR rd (.field p.t) (toW (fmul p.a p.b p.m))).finish := by
  simp [exec, execFmul, State.command_next, hp]

theorem exec_fdiv_of_pair {v : Nat} (hv : fdiv p.a p.b p.m = .ok v) :
    exec (.fdiv rd ra rb) s = .next (s.setR rd (.field p.t) (toW v)).finish := by
  simp [exec, execFdiv, State.command_next, hp, hv]

theorem exec_fdiv_of_error {e : Err} (he : fdiv p.a p.b p.m = .error e) :
    exec (.fdiv rd ra rb) s = .next (s.fail e) := by
  simp [exec, execFdiv, State.command_next, hp, he]

end Pair

/-- Each command on a pair raises what `readPair()` raises (R205). -/
theorem exec_pair_of_error {e : Err} (he : s.readPair ra rb = .error e) :
    ∀ i ∈ [Instr.fadd rd ra rb, .fsub rd ra rb, .fmul rd ra rb, .fdiv rd ra rb], exec i s = .next (s.fail e) := by
  simp [exec, execFadd, execFsub, execFmul, execFdiv, State.command_next, he]

/-! ### FINV, FPOW (R212, R213) -/

theorem exec_finv_of_ok {a v : Nat} {f : FieldSel} (ha : s.rfield ra = .ok (a, f))
    (hv : fdiv 1 a (s.fieldOf f) = .ok v) : exec (.finv rd ra) s = .next (s.setR rd (.field f) (toW v)).finish := by
  simp [exec, execFinv, State.command_next, ha, hv]

theorem exec_finv_of_error {a : Nat} {f : FieldSel} {e : Err} (ha : s.rfield ra = .ok (a, f))
    (he : fdiv 1 a (s.fieldOf f) = .error e) : exec (.finv rd ra) s = .next (s.fail e) := by
  simp [exec, execFinv, State.command_next, ha, he]

theorem exec_fpow_of_ok {a x : Nat} {f : FieldSel} (ha : s.rfield ra = .ok (a, f)) (hx : s.rint rb = .ok x) :
    exec (.fpow rd ra rb) s = .next (s.setR rd (.field f) (toW (fpow a x (s.fieldOf f)))).finish := by
  simp [exec, execFpow, State.command_next, ha, hx]

/-- Settles O34: each command stores its helper's value, and the helpers are the integer formulas. -/
theorem fieldArithmeticResults : Obligations.FieldArithmeticResults := by
  intro s rd ra rb a ta ha hm
  refine ⟨fun b tb hb hf => ?pair, fun h0 => ?inverse, fun h0 => ?inverseOfZero, fun e he => ?power⟩
  case pair =>
    have hp := readPair_of_ok ha hb hf
    refine ⟨exec_fadd_of_pair hp, exec_fsub_of_pair hp, exec_fmul_of_pair hp,
      fun h0 => exec_fdiv_of_pair hp (fdiv_of_ne_zero a hm h0), fun h0 => exec_fdiv_of_error hp ?_⟩
    subst h0
    exact fdiv_zero a _
  case inverse =>
    refine exec_finv_of_ok ha ?_
    rw [fdiv_of_ne_zero 1 hm h0, Nat.one_mul]
  case inverseOfZero =>
    subst h0
    exact exec_finv_of_error ha (fdiv_zero 1 _)
  case power => rw [exec_fpow_of_ok ha he, fpow_eq a e hm]

/-! ### Errors -/

theorem selectField_unusable (h : s.umv = false) : s.selectField .user = .error .noUserField := by
  simp [State.selectField, h]

theorem exec_mset_of_le {v : Nat} (hv : s.rint ra = .ok v) (h1 : v ≤ 1) :
    exec (.mset ra) s = .next (s.fail .invalidPrime) := by
  simp [exec, execMset, State.command_next, hv, h1]

theorem exec_fnew_of_ge {v : Nat} {mode : FieldSel} (hv : s.rint ra = .ok v) (hm : mode = .user → s.umv = true)
    (hge : s.fieldOf mode ≤ v) : exec (.fnew rd ra mode) s = .next (s.fail .invalidNum) := by
  simp [exec, execFnew, State.command_next, hv, selectField_of_usable hm, hge]

/-- FNEW and FRED raise what the read of their operand raises (R203, R204). -/
theorem exec_fnew_fred_of_rint_error {e : Err} (he : s.rint ra = .error e) (mode : FieldSel) :
    exec (.fnew rd ra mode) s = .next (s.fail e) ∧ exec (.fred rd ra mode) s = .next (s.fail e) := by
  simp [exec, execFnew, execFred, State.command_next, he]

/-- FNEW and FRED raise what the selection of their field raises (R201, R203, R204). -/
theorem exec_fnew_fred_of_select_error {v : Nat} {e : Err} {mode : FieldSel} (hv : s.rint ra = .ok v)
    (he : s.selectField mode = .error e) :
    exec (.fnew rd ra mode) s = .next (s.fail e) ∧ exec (.fred rd ra mode) s = .next (s.fail e) := by
  simp [exec, execFnew, execFred, State.command_next, hv, he]

/-- Settles O35: each command's pseudocode ends at the line that raises. -/
theorem fieldUnitErrors : Obligations.FieldUnitErrors := by
  intro s rd ra rb
  refine ⟨fun e he => ⟨?msetRead, exec_fnew_fred_of_rint_error he⟩,
    fun v hv => ⟨exec_mset_of_le hv, fun hu => exec_fnew_fred_of_select_error hv (selectField_unusable hu),
      fun mode => exec_fnew_of_ge hv⟩,
    fun i hi => ⟨fun e ha => exec_pair_of_error (readPair_first_error ha) i hi,
      fun x e ha hb => exec_pair_of_error (readPair_second_error ha hb) i hi,
      fun a b ta tb ha hb hne => exec_pair_of_error (readPair_mismatch ha hb hne) i hi⟩,
    fun e he => ⟨?finvRead, ?fpowBase⟩, fun x e hx he => ?fpowExponent⟩
  case msetRead => simp [exec, execMset, State.command_next, he]
  case finvRead => simp [exec, execFinv, State.command_next, he]
  case fpowBase => simp [exec, execFpow, State.command_next, he]
  case fpowExponent => simp [exec, execFpow, State.command_next, hx, he]

end Sys2Proof.Machine
end

section
/-!
The field laws over a prime modulus (O42; 40_field.md R215): residues below m are equal where they are equal in ZMod m, and
there the helpers are the operations of the field.
-/

namespace Sys2Proof.Machine

variable {a b m : Nat}

theorem eq_of_natCast_eq (ha : a < m) (hb : b < m) (h : (a : ZMod m) = b) : a = b :=
  ((ZMod.natCast_eq_natCast_iff a b m).1 h).eq_of_lt_of_lt ha hb

/-- Subtraction undoes addition, for every modulus. -/
theorem fsub_fadd_cancel (ha : a < m) (hb : b < m) : fsub (fadd a b m) b m = a := by
  refine eq_of_natCast_eq (fsub_lt _ _ (by omega)) ha ?_
  rw [natCast_fsub _ hb.le, natCast_fadd, add_sub_cancel_right]

/-- Division undoes multiplication by a nonzero element of a prime field. -/
theorem fdiv_fmul_cancel (hm : m.Prime) (ha : a < m) (hb : b < m) (h0 : b ≠ 0) : fdiv (fmul a b m) b m = .ok a := by
  have := Fact.mk hm
  obtain ⟨v, hv, hmul⟩ := natCast_fdiv (a := fmul a b m) hm h0 hb
  rw [natCast_fmul] at hmul
  rw [hv, eq_of_natCast_eq (fdiv_lt hm.pos hv) ha (mul_right_cancel₀ (natCast_ne_zero h0 hb) hmul)]

/-- Multiplication undoes division by a nonzero element of a prime field. -/
theorem fmul_fdiv_cancel (hm : m.Prime) (ha : a < m) (hb : b < m) (h0 : b ≠ 0) :
    ∃ q, fdiv a b m = .ok q ∧ q < m ∧ fmul q b m = a := by
  obtain ⟨q, hq, hmul⟩ := natCast_fdiv (a := a) hm h0 hb
  exact ⟨q, hq, fdiv_lt hm.pos hq,
    eq_of_natCast_eq (fmul_lt _ _ hm.pos) ha ((natCast_fmul q b m).trans hmul)⟩

/-- The exponent m - 1 is reduced to 0, so the power is 1 for every base, 0 included (R210, R215). -/
theorem fpow_pred (a : Nat) (hm : 2 < m) : fpow a (m - 1) m = 1 := by
  rw [fpow, if_neg (by omega), Nat.mod_self, modexp_zero]

/-- Settles O42: the product is one reduction by definition, each other law a lemma above. -/
theorem primeFieldLaws : Obligations.PrimeFieldLaws := fun _ a _ hm ha hb =>
  ⟨fsub_fadd_cancel ha hb, fun h0 => ⟨fdiv_fmul_cancel hm ha hb h0, fmul_fdiv_cancel hm ha hb h0⟩, rfl, fpow_pred a⟩

end Sys2Proof.Machine
end

section
/-!
The cases of the addition law over the integers (O39; 41_curve.md R261-R265).
-/

namespace Sys2Proof.Machine

/-! ### The branches of `padd`, in the source's order -/

section Branches
variable {x1 y1 x2 y2 : Nat} {c : Curve}

theorem padd_inf_left (p : Pt) (c : Curve) : padd .inf p c = .ok p := rfl

theorem padd_inf_right (p : Pt) (c : Curve) : padd p .inf c = .ok p := by
  cases p <;> rfl

theorem padd_of_opposite (x : Nat) (h : fadd y1 y2 c.m = 0) : padd (.aff x y1) (.aff x y2) c = .ok .inf :=
  if_pos ⟨rfl, h⟩

/-- The second branch of R263, y = 0, is never taken: 0 is its own opposite. -/
theorem padd_of_double {x y : Nat} (h : fadd y y c.m ≠ 0) : padd (.aff x y) (.aff x y) c = doublePoint x y c := by
  have hy : y ≠ 0 := by rintro rfl; exact h (Nat.zero_mod _)
  simp [padd, h, hy]

theorem padd_of_ne (h : x1 ≠ x2) : padd (.aff x1 y1) (.aff x2 y2) c = addDistinct x1 y1 x2 y2 c := by
  simp [padd, h]

theorem padd_of_neither (x : Nat) (hy : y1 ≠ y2) (h : fadd y1 y2 c.m ≠ 0) :
    padd (.aff x y1) (.aff x y2) c = .error .divisionByZero := by
  simp [padd, hy, h]

end Branches

/-! ### Residues over the integers -/

/-- A residue is the remainder of every integer it equals in ZMod m. -/
theorem eq_emod_of_cast_eq {v m : Nat} {z : Int} (hv : v < m) (h : (v : ZMod m) = (z : ZMod m)) : (v : Int) = z % m := by
  have hmod := (ZMod.intCast_eq_intCast_iff' v z m).1 (by simpa using h)
  rwa [Int.emod_eq_of_lt (by omega) (by omega)] at hmod

/-- Fermat's formula for the slope (R209), its operands written over the integers. -/
theorem fdiv_eq_emod {a b m : Nat} {za zb : Int} (hm : 1 < m) (h0 : b ≠ 0) (ha : (a : ZMod m) = (za : ZMod m))
    (hb : (b : ZMod m) = (zb : ZMod m)) : ∃ s : Nat, fdiv a b m = .ok s ∧ (s : Int) = za * zb ^ (m - 2) % m := by
  refine ⟨_, fdiv_of_ne_zero a hm h0, eq_emod_of_cast_eq (Nat.mod_lt _ (by omega)) ?_⟩
  push_cast [ZMod.natCast_mod]
  rw [ha, hb]

/-- The y coordinate of R263 and R264. -/
theorem chordPoint_eq_emod (s x1 : Nat) {y1 x3 m : Nat} (hy : y1 < m) (hx3 : x3 < m) :
    ∃ y3 : Nat, chordPoint s x1 y1 x3 m = .aff x3 y3 ∧ (y3 : Int) = (s * (x1 - x3) - y1) % m := by
  refine ⟨_, rfl, eq_emod_of_cast_eq (fsub_lt _ _ (by omega)) ?_⟩
  rw [natCast_fsub _ hy.le, natCast_fmul, natCast_fsub _ hx3.le]
  push_cast
  rfl

theorem fsub_ne_zero {a b m : Nat} (ha : a < m) (hb : b < m) (h : a ≠ b) : fsub a b m ≠ 0 := by
  intro h0
  refine h (eq_of_natCast_eq ha hb (sub_eq_zero.1 ?_))
  rw [← natCast_fsub a hb.le, h0, Nat.cast_zero]

/-! ### The new point (R263, R264) -/

section NewPoint
variable {x1 y1 x2 y2 : Nat} {c : Curve} (hm : 1 < c.m) (hy1 : y1 < c.m)
include hm hy1

theorem doublePoint_eq_emod (x1 : Nat) (h : fadd y1 y1 c.m ≠ 0) : ∃ s x3 y3 : Nat,
    doublePoint x1 y1 c = .ok (.aff x3 y3) ∧
    (s : Int) = (3 * x1 ^ 2 + c.a) * (2 * y1) ^ (c.m - 2) % c.m ∧
    (x3 : Int) = (s ^ 2 - 2 * x1) % c.m ∧
    (y3 : Int) = (s * (x1 - x3) - y1) % c.m := by
  have hm0 : 0 < c.m := by omega
  have hden : fmul 2 y1 c.m ≠ 0 := by rwa [fmul, Nat.two_mul]
  obtain ⟨s, hs, hslope⟩ := fdiv_eq_emod (a := fadd (fmul 3 (fmul x1 x1 c.m) c.m) c.a c.m)
    (za := 3 * x1 ^ 2 + c.a) (zb := 2 * y1) hm hden (by simp [sq]) (by simp)
  obtain ⟨y3, hp, hy3⟩ := chordPoint_eq_emod s x1 hy1 (fsub_lt (fmul s s c.m) (fmul 2 x1 c.m) hm0)
  refine ⟨s, _, y3, by rw [doublePoint, hs, ok_bind, hp]; rfl, hslope, eq_emod_of_cast_eq (fsub_lt _ _ hm0) ?_, hy3⟩
  rw [natCast_fsub _ (fmul_lt _ _ hm0).le]
  simp [sq]

theorem addDistinct_eq_emod (hx1 : x1 < c.m) (hx2 : x2 < c.m) (hy2 : y2 < c.m) (hne : x1 ≠ x2) : ∃ s x3 y3 : Nat,
    addDistinct x1 y1 x2 y2 c = .ok (.aff x3 y3) ∧
    (s : Int) = ((y1 : Int) - y2) * ((x1 : Int) - x2) ^ (c.m - 2) % c.m ∧
    (x3 : Int) = (s ^ 2 - x1 - x2) % c.m ∧
    (y3 : Int) = (s * (x1 - x3) - y1) % c.m := by
  have hm0 : 0 < c.m := by omega
  have hsub : (fsub x1 x2 c.m : ZMod c.m) = x1 - x2 := natCast_fsub _ hx2.le
  obtain ⟨s, hs, hslope⟩ := fdiv_eq_emod (a := fsub y1 y2 c.m) (za := y1 - y2) (zb := x1 - x2) hm
    (fsub_ne_zero hx1 hx2 hne) (by simp [natCast_fsub _ hy2.le]) (by simp [hsub])
  obtain ⟨y3, hp, hy3⟩ := chordPoint_eq_emod s x1 hy1 (fsub_lt (fsub (fmul s s c.m) x1 c.m) x2 hm0)
  refine ⟨s, _, y3, by rw [addDistinct, hs, ok_bind, hp]; rfl, hslope, eq_emod_of_cast_eq (fsub_lt _ _ hm0) ?_, hy3⟩
  rw [natCast_fsub _ hx2.le, natCast_fsub _ hx1.le]
  simp [sq]

end NewPoint

/-- Settles O39: one branch of `padd` per clause. -/
theorem pointAdditionCases : Obligations.PointAdditionCases := by
  refine ⟨fun c p => ⟨padd_inf_left p c, padd_inf_right p c⟩, fun c x1 y1 x2 y2 hm hx1 hy1 hx2 hy2 =>
    ⟨?opposite, ?double, fun hne => ?distinct, ?neither⟩⟩
  case opposite => rintro rfl h; exact padd_of_opposite x1 h
  case double => rintro rfl rfl h; rw [padd_of_double h]; exact doublePoint_eq_emod hm hy1 x1 h
  case distinct => rw [padd_of_ne hne]; exact addDistinct_eq_emod hm hy1 hx1 hx2 hy2 hne
  case neither => rintro rfl hy h; exact padd_of_neither x1 hy h

end Sys2Proof.Machine
end

section
/-!
The point commands (O37; 41_curve.md R266-R269) and the errors of the curve unit (O38; R250-R253, R260, 60_exceptions.md
R506).
-/

namespace Sys2Proof.Machine

variable {s : State} {rd ra rb : RegIdx}

/-! ### PADD, PDBL, PMUL on points that can be read (R267-R269) -/

theorem exec_padd_of_error {p1 p2 : Pt} {c1 c2 : CurveSel} {e : Err} (h1 : s.qpt ra = .ok (p1, c1))
    (h2 : s.qpt rb = .ok (p2, c2)) (hc : s.curveOf c1 = s.curveOf c2) (he : padd p1 p2 (s.curveOf c1) = .error e) :
    exec (.padd rd ra rb) s = .next (s.fail e) := by
  simp [exec, execPadd, State.command_next, h1, h2, ← hc, he]

theorem exec_pmul_of_error {k : Nat} {p : Pt} {c : CurveSel} {e : Err} (hk : s.rint ra = .ok k)
    (hp : s.qpt rb = .ok (p, c)) (he : pmul k p (s.curveOf c) = .error e) :
    exec (.pmul rd ra rb) s = .next (s.fail e) := by
  simp [exec, execPmul, State.command_next, hk, hp, he]

/-- PDBL is PADD of a point to itself: the check of the curves compares one curve with itself (R268). -/
theorem exec_pdbl_eq_padd (s : State) (rd ra : RegIdx) : exec (.pdbl rd ra) s = exec (.padd rd ra ra) s := by
  simp only [exec, execPdbl, execPadd]
  cases s.qpt ra with
  | error e => rfl
  | ok x => simp only [ok_bind, ne_eq, not_true_eq_false, if_false]

/-! ### The loop of R266 -/

/-- The loop with as much fuel as the scalar has bits. -/
def scalarLoop (c : Curve) (result current : Pt) (k : Nat) : Except Err Pt :=
  pmulLoop c (Nat.log2 k + 1) result current k

theorem pmul_eq_scalarLoop (k : Nat) (p : Pt) (c : Curve) : pmul k p c = scalarLoop c .inf p k := rfl

theorem scalarLoop_zero (c : Curve) (result current : Pt) : scalarLoop c result current 0 = .ok result := rfl

/-- One turn: an addition for a bit 1, then the doubling, which no bit leaves out. -/
theorem scalarLoop_of_pos (c : Curve) (result current : Pt) {k : Nat} (hk : 0 < k) :
    scalarLoop c result current k = addBit k result current c >>= fun result' =>
      padd current current c >>= fun current' => scalarLoop c result' current' (k / 2) := by
  have hlt := lt_two_pow_log2 k
  rw [scalarLoop, pmulLoop, if_neg hk.ne']
  congr; funext result'; congr; funext current'
  exact pmulLoop_fuel result' current' c (by rw [Nat.pow_succ] at hlt; omega) (lt_two_pow_log2 (k / 2))

/-- Settles O37: each command stores what the law or the loop answers, or reports its error. -/
theorem pointCommandResults : Obligations.PointCommandResults := by
  refine ⟨fun s rd ra rb p1 p2 c1 c2 h1 h2 => ⟨fun hc => ⟨fun _ => exec_padd_of_ok h1 h2 hc, fun _ =>
    exec_padd_of_error h1 h2 hc⟩, ?double, fun rk k hk => ⟨fun _ => exec_pmul_of_ok hk h1, fun _ =>
    exec_pmul_of_error hk h1⟩⟩, scalarLoop, pmul_eq_scalarLoop, scalarLoop_zero, fun c _ _ _ => scalarLoop_of_pos c _ _⟩
  case double =>
    obtain ⟨q, hq⟩ := padd_self p1 (s.curveOf c1)
    exact ⟨q, hq, (exec_pdbl_eq_padd s rd ra).trans (exec_padd_of_ok h1 h1 rfl hq)⟩

/-! ### Errors -/

theorem selectCurve_unusable (h : s.ucv = false) : s.selectCurve .user = .error .noUserCurve := by
  simp [State.selectCurve, h]

theorem exec_cset_of_first_error {e : Err} (ha : s.rfield ra = .error e) : exec (.cset ra rb) s = .next (s.fail e) := by
  simp [exec, execCset, State.command_next, ha]

theorem exec_cset_of_second_error {x : Nat × FieldSel} {e : Err} (ha : s.rfield ra = .ok x)
    (hb : s.rfield rb = .error e) : exec (.cset ra rb) s = .next (s.fail e) := by
  simp [exec, execCset, State.command_next, ha, hb]

theorem exec_pnew_of_first_error {e : Err} (c : CurveSel) (ha : s.rfield ra = .error e) :
    exec (.pnew rd ra rb c) s = .next (s.fail e) := by
  simp [exec, execPnew, State.command_next, ha]

theorem exec_pnew_of_second_error {x : Nat × FieldSel} {e : Err} (c : CurveSel) (ha : s.rfield ra = .ok x)
    (hb : s.rfield rb = .error e) : exec (.pnew rd ra rb c) s = .next (s.fail e) := by
  simp [exec, execPnew, State.command_next, ha, hb]

section Elements
variable {a b : Nat} {ta tb : FieldSel} (ha : s.rfield ra = .ok (a, ta)) (hb : s.rfield rb = .ok (b, tb))
include ha hb

theorem exec_cset_of_no_field (hv : s.umv = false) : exec (.cset ra rb) s = .next (s.fail .noUserField) := by
  simp [exec, execCset, State.command_next, ha, hb, hv]

theorem exec_cset_of_other_field (hv : s.umv = true) (h : s.fieldOf ta ≠ s.um.toNat ∨ s.fieldOf tb ≠ s.um.toNat) :
    exec (.cset ra rb) s = .next (s.fail .tag) := by
  simp [exec, execCset, State.command_next, ha, hb, hv, if_pos h]

theorem exec_pnew_of_no_curve (hv : s.ucv = false) : exec (.pnew rd ra rb .user) s = .next (s.fail .noUserCurve) := by
  simp [exec, execPnew, State.command_next, ha, hb, selectCurve_unusable hv]

theorem exec_pnew_of_other_field {c : CurveSel} (hc : c = .user → s.ucv = true)
    (h : s.fieldOf ta ≠ (s.curveOf c).m ∨ s.fieldOf tb ≠ (s.curveOf c).m) :
    exec (.pnew rd ra rb c) s = .next (s.fail .fieldMismatch) := by
  simp [exec, execPnew, State.command_next, ha, hb, selectCurve_of_usable hc, if_pos h]

theorem exec_pnew_of_off_curve {c : CurveSel} (hc : c = .user → s.ucv = true) (hta : s.fieldOf ta = (s.curveOf c).m)
    (htb : s.fieldOf tb = (s.curveOf c).m) (ho : ¬onCurve a b (s.curveOf c) = true) :
    exec (.pnew rd ra rb c) s = .next (s.fail .notOnCurve) := by
  simp [exec, execPnew, State.command_next, ha, hb, selectCurve_of_usable hc, hta, htb, ho]

end Elements

theorem not_onCurve_of_ne {x y : Nat} {c : Curve} (h : y * y % c.m ≠ (x * x * x + c.a * x + c.b) % c.m) :
    ¬onCurve x y c = true := by
  rw [onCurve_iff_mod]
  simpa only [pow_succ, pow_zero, one_mul] using h

/-- Settles O38: each command's pseudocode ends at the line that raises. -/
theorem curveUnitErrors : Obligations.CurveUnitErrors := by
  intro s rd ra rb
  refine ⟨fun i hi => ?elements, fun a b ta tb ha hb => ⟨exec_cset_of_no_field ha hb, exec_cset_of_other_field ha hb,
      exec_pnew_of_no_curve ha hb, fun c hc => ⟨exec_pnew_of_other_field ha hb hc, fun hta htb h =>
        exec_pnew_of_off_curve ha hb hc hta htb (not_onCurve_of_ne h)⟩⟩,
    fun hv => ?pinf, fun e he => ⟨?paddFirst, ?pdbl⟩, fun x e hx he => ?paddSecond, fun p1 p2 c1 c2 h1 h2 hne => ?curves,
    fun e he => ?scalar, fun k e hk he => ?point⟩
  case elements =>
    simp only [List.mem_cons, List.not_mem_nil, or_false] at hi
    obtain rfl | rfl | rfl := hi
    · exact ⟨fun _ => exec_cset_of_first_error, fun _ _ => exec_cset_of_second_error⟩
    · exact ⟨fun _ => exec_pnew_of_first_error .secp, fun _ _ => exec_pnew_of_second_error .secp⟩
    · exact ⟨fun _ => exec_pnew_of_first_error .user, fun _ _ => exec_pnew_of_second_error .user⟩
  case pinf => simp [exec, execPinf, State.command_next, selectCurve_unusable hv]
  case paddFirst => simp [exec, execPadd, State.command_next, he]
  case pdbl => simp [exec, execPdbl, State.command_next, he]
  case paddSecond => simp [exec, execPadd, State.command_next, hx, he]
  case curves => simp [exec, execPadd, State.command_next, h1, h2, hne]
  case scalar => simp [exec, execPmul, State.command_next, he]
  case point => simp [exec, execPmul, State.command_next, hk, he]

end Sys2Proof.Machine
end

section
/-!
The group properties of R270 (O41; 41_curve.md).
-/

namespace Sys2Proof.Machine

/-- INF + P = P is the one addition; the doubling that follows it never raises (R266). -/
theorem pmul_one (p : Pt) (c : Curve) : pmul 1 p c = .ok p := by
  obtain ⟨d, hd⟩ := padd_self p c
  have hbit : addBit 1 .inf p c = .ok p := rfl
  rw [pmul_eq_scalarLoop, scalarLoop_of_pos c _ _ Nat.one_pos, hbit, ok_bind, hd, ok_bind]
  exact scalarLoop_zero c p d

/-- A residue and its negative sum to 0. -/
theorem fadd_neg {y m : Nat} (hy : y < m) : fadd y ((m - y) % m) m = 0 := by
  rw [fadd, Nat.add_mod_mod, Nat.add_sub_cancel' hy.le, Nat.mod_self]

/-- The order of G: the loop of R266 is run on N. -/
theorem pmul_order_genG : pmul Config.N genG secp = .ok .inf := by
  decide +kernel

/-- -7 is no cube modulo P: by Fermat the power (P - 1)/3 of a nonzero cube is 1, and that of -7 is another number. -/
theorem neg_seven_pow : (Config.P - 7) ^ ((Config.P - 1) / 3) % Config.P ≠ 1 := by
  rw [← modexp_eq _ _ prime_P.one_lt]
  decide +kernel

/-- No point of SECP has y = 0: the cube of its x would be -7 (R268, R270). -/
theorem secp_y_ne_zero {x y : Nat} (h : (Pt.aff x y).isOn secp) : y ≠ 0 := by
  have := Fact.mk prime_P
  obtain ⟨-, -, ho⟩ := h
  rintro rfl
  have hcube : (x : ZMod Config.P) ^ 3 = (Config.P - 7 : Nat) := by
    have hsum := (ZMod.natCast_eq_natCast_iff' _ _ _).2 ((onCurve_secp_iff x 0).1 ho)
    rw [Nat.cast_sub (by decide), ZMod.natCast_self, zero_sub, eq_neg_iff_add_eq_zero]
    exact_mod_cast hsum.symm
  have hx : (x : ZMod Config.P) ≠ 0 := fun h0 => by
    refine natCast_ne_zero (a := Config.P - 7) (m := Config.P) (by decide) (by decide) ?_
    rw [← hcube, h0, zero_pow three_ne_zero]
  have hpow : (((Config.P - 7) ^ ((Config.P - 1) / 3) : Nat) : ZMod Config.P) = (1 : Nat) := by
    calc (((Config.P - 7) ^ ((Config.P - 1) / 3) : Nat) : ZMod Config.P)
        = (x ^ 3) ^ ((Config.P - 1) / 3) := by rw [Nat.cast_pow, hcube]
      _ = x ^ (Config.P - 1) := by rw [← pow_mul, Nat.mul_div_cancel' (by decide)]
      _ = (1 : Nat) := by rw [ZMod.pow_card_sub_one_eq_one hx, Nat.cast_one]
  exact neg_seven_pow ((ZMod.natCast_eq_natCast_iff' _ _ _).1 hpow)

/-- Settles O41: a lemma for each property. -/
theorem groupProperties : Obligations.GroupProperties :=
  ⟨fun c p => ⟨padd_inf_right p c, rfl, pmul_one p c⟩, fun _ x _ hy => padd_of_opposite x (fadd_neg hy),
    exec_pdbl_eq_padd, pmul_order_genG, fun _ _ => secp_y_ne_zero⟩

end Sys2Proof.Machine
end

section
/-!
Signing and verification as formulas: one turn of SIGN's loop (42_ecdsa.md R303, R304), the digest modulo N (R312), the
verdict of VERIFY (R306); the limits of every signature (O45) and the digest's residue (O46).
-/

namespace Sys2Proof.Machine

/-! ### One turn of the loop (R303) -/

/-- The s half of R303 before the low-S rule. -/
def fullS (e z k r : Nat) : Nat := (r * e + z) * k ^ (Config.N - 2) % Config.N

theorem fullS_lt (e z k r : Nat) : fullS e z k r < Config.N := Nat.mod_lt _ prime_N.pos

theorem fmul_modexp_eq (a k : Nat) :
    fmul a (modexp k (Config.N - 2) Config.N) Config.N = a * k ^ (Config.N - 2) % Config.N := by
  rw [fmul, modexp_eq _ _ prime_N.one_lt, Nat.mul_mod_mod]

/-- The reductions that R303 makes on its way do not show in the result. -/
theorem fullS_eq (e z k r : Nat) :
    fmul (fadd (fmul r e Config.N) (z % Config.N) Config.N) (modexp k (Config.N - 2) Config.N) Config.N =
      fullS e z k r := by
  rw [fmul_modexp_eq, fadd, fmul, ← Nat.add_mod, Nat.mod_mul_mod, fullS]

theorem signWith_of_out_of_range (e z : Nat) {k : Nat} (hk : k = 0 ∨ Config.N ≤ k) : signWith e z k = none :=
  if_neg (by omega)

theorem signWith_of_pmul {k x y : Nat} (e z : Nat) (h1 : 1 ≤ k) (hN : k < Config.N)
    (hp : pmul k genG secp = .ok (.aff x y)) :
    signWith e z k = if x % Config.N = 0 ∨ fullS e z k (x % Config.N) = 0 then none
      else some (x % Config.N, lowS (fullS e z k (x % Config.N))) := by
  rw [signWith, if_pos ⟨h1, hN⟩, hp]
  dsimp only
  rw [fullS_eq]

/-- All that an accepted candidate says (R303, R310). -/
theorem signWith_some {e z k r s : Nat} (h : signWith e z k = some (r, s)) :
    ∃ x y, 1 ≤ k ∧ k < Config.N ∧ pmul k genG secp = .ok (.aff x y) ∧ r = x % Config.N ∧ r ≠ 0 ∧
      fullS e z k r ≠ 0 ∧ s = lowS (fullS e z k r) := by
  obtain hk | hk : (k = 0 ∨ Config.N ≤ k) ∨ 1 ≤ k ∧ k < Config.N := by omega
  · rw [signWith_of_out_of_range e z hk] at h
    cases h
  obtain ⟨x, y, hp⟩ : ∃ x y, pmul k genG secp = .ok (.aff x y) := by
    rw [signWith, if_pos hk] at h
    split at h
    · exact ⟨_, _, ‹_›⟩
    · cases h
    · cases h
  rw [signWith_of_pmul e z hk.1 hk.2 hp] at h
  split at h
  · cases h
  · next hne =>
    cases h
    exact ⟨x, y, hk.1, hk.2, hp, rfl, fun h => hne (.inl h), fun h => hne (.inr h), rfl⟩

/-! ### The limits of a signature (R303, R304) -/

/-- The low-S rule brings every nonzero residue into [1, (N - 1)/2]; N is odd. -/
theorem lowS_limits {t : Nat} (h0 : t ≠ 0) (hN : t < Config.N) : 1 ≤ lowS t ∧ lowS t ≤ (Config.N - 1) / 2 := by
  have hodd : Config.N % 2 = 1 := by decide
  unfold lowS
  split <;> omega

/-- The limits of R303 and R304. -/
def SignatureInLimits (rs : Nat × Nat) : Prop :=
  1 ≤ rs.1 ∧ rs.1 < Config.N ∧ 1 ≤ rs.2 ∧ rs.2 ≤ (Config.N - 1) / 2

theorem signWith_limits {e z k : Nat} {rs : Nat × Nat} (h : signWith e z k = some rs) : SignatureInLimits rs := by
  obtain ⟨r, s⟩ := rs
  obtain ⟨x, y, -, -, -, rfl, hr, ht, rfl⟩ := signWith_some h
  exact ⟨Nat.pos_of_ne_zero hr, Nat.mod_lt _ prime_N.pos, lowS_limits ht (fullS_lt _ _ _ _)⟩

theorem signOpen_limits (fn : NonceFn) (e z : Nat) : SignatureInLimits (signOpen fn e z) := by
  have hN : 2 < Config.N := by decide
  have hr := Nat.mod_lt (Config.noSignature fn e (z % Config.N)).1 (show 0 < Config.N - 1 by omega)
  have hs := Nat.mod_lt (Config.noSignature fn e (z % Config.N)).2 (show 0 < (Config.N - 1) / 2 by omega)
  unfold SignatureInLimits signOpen
  dsimp only
  omega

/-- A free signature is that of an accepted nonce, or the value in the place of one (log entries 8, 9, 16). -/
theorem signFree_cases (fn : NonceFn) (e z : Nat) :
    (∃ k, signWith e z k = some (signFree fn e z)) ∨ signFree fn e z = signOpen fn e z := by
  rw [signFree]
  cases h0 : signWith e z (Config.freeNonce fn e (z % Config.N)) with
  | some rs => exact .inl ⟨_, h0⟩
  | none =>
    cases h1 : signWith e z 1 with
    | some rs => exact .inl ⟨1, h1⟩
    | none =>
      cases h2 : signWith e z 2 with
      | some rs => exact .inl ⟨2, h2⟩
      | none => exact .inr rfl

theorem signFree_limits (fn : NonceFn) (e z : Nat) : SignatureInLimits (signFree fn e z) := by
  obtain ⟨k, hk⟩ | h := signFree_cases fn e z
  · exact signWith_limits hk
  · rw [h]; exact signOpen_limits fn e z

theorem signDigest_limits (fn : NonceFn) (e z : Nat) : SignatureInLimits (signDigest fn e z) := by
  cases fn with
  | other => exact signFree_limits .other e z
  | rfc6979 =>
    rw [signDigest]
    cases h : signRfc e z with
    | none => exact signFree_limits .rfc6979 e z
    | some rs =>
      obtain ⟨k, hk⟩ := signLoop_some h
      exact signWith_limits hk

/-- Settles O45: the limits of an accepted candidate, and of the free values where there is none. -/
theorem signatureLimits : Obligations.SignatureLimits :=
  ⟨fun _ => rfl, fun _ _ _ _ _ h => signWith_limits h, signDigest_limits⟩

/-! ### The digest modulo N (R312) -/

section Congruent
variable {z z' : Nat} (h : z % Config.N = z' % Config.N)
include h

theorem signWith_congr (e k : Nat) : signWith e z k = signWith e z' k := by
  rw [signWith, signWith, h]

theorem nonceInit_congr (e : Nat) : nonceInit e z = nonceInit e z' := by
  rw [nonceInit, nonceInit, h]

theorem signLoop_congr (e fuel : Nat) (g : NonceGen) : signLoop e z fuel g = signLoop e z' fuel g := by
  induction fuel generalizing g with
  | zero => rfl
  | succ fuel ih => rw [signLoop, signLoop, signWith_congr h, ih]

theorem signRfc_congr (e : Nat) : signRfc e z = signRfc e z' := by
  rw [signRfc, signRfc, nonceInit_congr h, signLoop_congr h]

theorem signFree_congr (fn : NonceFn) (e : Nat) : signFree fn e z = signFree fn e z' := by
  rw [signFree, signFree, signOpen, signOpen, h]
  simp only [signWith_congr h]

theorem signDigest_congr (fn : NonceFn) (e : Nat) : signDigest fn e z = signDigest fn e z' := by
  cases fn with
  | other => exact signFree_congr h .other e
  | rfc6979 => rw [signDigest, signDigest, signRfc_congr h, signFree_congr h]

end Congruent

/-- SIGN with a key loaded (R302). -/
theorem exec_sign_of_key {s : State} {rd ra rb : RegIdx} {z : Nat} (hne : rd ≠ rb) (hz : s.rint ra = .ok z)
    (hkv : s.kv = true) :
    exec (.sign rd ra rb) s = .next ((s.setInt rd (signDigest s.params.nonce s.ksec.toNat z).1).setInt rb
      (signDigest s.params.nonce s.ksec.toNat z).2).finish := by
  simp [exec, execSign, State.command_next, hne, hz, hkv]

/-- Settles O46: the signature depends on the digest through z mod N alone. -/
theorem digestEntersModuloN : Obligations.DigestEntersModuloN := by
  intro s ra ra' rd rb z z' hne hkv hz hz' hmod
  rw [exec_sign_of_key hne hz hkv, exec_sign_of_key hne hz' hkv, signDigest_congr hmod]

/-! ### Verification (R306) -/

theorem verifySig_of_out_of_range (pub : Pt) (z : Nat) {r t : Nat}
    (h : r = 0 ∨ Config.N ≤ r ∨ t = 0 ∨ Config.N ≤ t) : verifySig pub z r t = false :=
  if_pos h

section Verdict
variable {pub p1 p2 : Pt} {z r t : Nat} (hu : pmul (z * t ^ (Config.N - 2) % Config.N) genG secp = .ok p1)
  (hv : pmul (r * t ^ (Config.N - 2) % Config.N) pub secp = .ok p2)
include hu hv

theorem verifyPoint_eq_padd : verifyPoint pub (fmul (z % Config.N) (modexp t (Config.N - 2) Config.N) Config.N)
    (fmul r (modexp t (Config.N - 2) Config.N) Config.N) = padd p1 p2 secp := by
  rw [verifyPoint, fmul_modexp_eq, fmul_modexp_eq, Nat.mod_mul_mod, hu, hv]
  rfl

variable (hr : 1 ≤ r ∧ r < Config.N) (ht : 1 ≤ t ∧ t < Config.N)
include hr ht

theorem verifySig_of_inf (h : padd p1 p2 secp = .ok .inf) : verifySig pub z r t = false := by
  rw [verifySig, if_neg (by omega)]
  dsimp only
  rw [verifyPoint_eq_padd hu hv, h]

theorem verifySig_of_point {x y : Nat} (h : padd p1 p2 secp = .ok (.aff x y)) :
    verifySig pub z r t = decide (x % Config.N = r) := by
  rw [verifySig, if_neg (by omega)]
  dsimp only
  rw [verifyPoint_eq_padd hu hv, h]

end Verdict

end Sys2Proof.Machine
end

section
/-!
KLOAD, SIGN and VERIFY where they succeed (O43; 42_ecdsa.md R301-R306, R310, R311, R313).
-/

namespace Sys2Proof.Machine

variable {s : State} {rd ra rb rc re : RegIdx}

/-! ### KLOAD, VERIFY -/

theorem exec_kload_of_ok {e : Nat} {p : Pt} (he : s.rint ra = .ok e) (h1 : 1 ≤ e) (hN : e < Config.N)
    (hp : pmul e genG secp = .ok p) : exec (.kload rd ra) s = .next (s.loadKey rd e p).finish := by
  have hc : ¬(e = 0 ∨ e ≥ Config.N) := by omega
  simp [exec, execKload, State.command_next, he, hp, if_neg hc]

theorem exec_verify_of_ok {p : Pt} {c : CurveSel} {z r x : Nat} (hp : s.qpt ra = .ok (p, c)) (hz : s.rint rb = .ok z)
    (hr : s.rint rc = .ok r) (hx : s.rint re = .ok x) (hc : s.curveOf c = secp) :
    exec (.verify rd ra rb rc re) s = .next (s.setInt rd (verifySig p z r x).toNat).finish := by
  simp [exec, execVerify, State.command_next, hp, hz, hr, hx, hc]

theorem lt_width_of_lt_N {n : Nat} (h : n < Config.N) : n < 2 ^ 256 := h.trans (by decide)

theorem lt_width_of_lt_P {n : Nat} (h : n < Config.P) : n < 2 ^ 256 := h.trans (by decide)

/-- KLOAD's multiplication never raises, as P is prime, and its coordinates fit the registers (R301). -/
theorem kload_results {e : Nat} (he : s.rint ra = .ok e) (h1 : 1 ≤ e) (hN : e < Config.N) :
    ∃ q t, pmul e genG secp = .ok q ∧ exec (.kload rd ra) s = .next t ∧
      t.kv = true ∧ t.ksec.toNat = e ∧ t.getQ rd = pointReg .secp q ∧
      (∀ x y, q = .aff x y → t.kpubx.toNat = x ∧ t.kpuby.toNat = y) ∧
      t.done = true ∧ t.busy = false ∧ t.err = s.err ∧ t.errcode = s.errcode := by
  obtain ⟨q, hq, hon⟩ := pmul_isOn prime_P e genG_isOn
  refine ⟨q, _, hq, exec_kload_of_ok he h1 hN hq, rfl, toW_toNat (lt_width_of_lt_N hN), ?_, ?_, rfl, rfl, rfl, rfl⟩
  · rw [State.getQ_finish, State.getQ_loadKey, if_pos rfl]
  · rintro x y rfl
    exact ⟨toW_toNat (lt_width_of_lt_P hon.1), toW_toNat (lt_width_of_lt_P hon.2.1)⟩

/-! ### The nonce sequence (R310, R311, R313) -/

/-- The default signature is that of the first accepted candidate, however late it comes. -/
theorem signDigest_first {e z n : Nat} {rs : Nat × Nat}
    (hrej : ∀ j, j < n → signWith e z (nonceCandidate (nonceAt (nonceInit e z) j)) = none)
    (hacc : signWith e z (nonceCandidate (nonceAt (nonceInit e z) n)) = some rs) : signDigest .rfc6979 e z = rs := by
  rw [signDigest, signRfc_first hrej hacc]
  rfl

/-- Settles O43: a lemma for each command and each algorithm; K n and V n are the fields of generator n. -/
theorem ecdsaResults : Obligations.EcdsaResults := by
  refine ⟨fun s rd ra rb rc re => ⟨fun e => kload_results, fun z hne hz hkv => exec_sign_of_key hne hz hkv,
      fun p c z r x hp hz hr hx hc => ?verify⟩,
    fun e z k => ⟨signWith_of_out_of_range e z, fun x y h1 hN hp => ?turn⟩,
    fun e z => ⟨fun n => (nonceAt (nonceInit e z) n).k, fun n => (nonceAt (nonceInit e z) n).v, ⟨rfl, rfl⟩,
      fun n => ⟨rfl, rfl⟩, fun n rt => signDigest_first⟩,
    fun fn e z h1 hN => signDigest_accepted fn z (by rw [Nat.mod_eq_of_lt hN]; omega),
    fun pub z r t => ⟨verifySig_of_out_of_range pub z, fun p1 p2 hr1 hrN ht1 htN hu hv =>
      ⟨verifySig_of_inf hu hv ⟨hr1, hrN⟩ ⟨ht1, htN⟩, fun x y h => ?verdict⟩⟩⟩
  case verify =>
    rw [exec_verify_of_ok hp hz hr hx hc]
    cases verifySig p z r x <;> rfl
  case turn => exact signWith_of_pmul e z h1 hN hp
  case verdict => rw [verifySig_of_point hu hv ⟨hr1, hrN⟩ ⟨ht1, htN⟩ h, decide_eq_true_eq]

end Sys2Proof.Machine
end

section
/-!
The addition law is the group law of the curve (41_curve.md R261-R266): over a prime modulus a point with coordinates
stands for a point of Mathlib's Weierstrass curve y² = x³ + ax + b, `padd` adds and `pmul` multiplies there.
-/

namespace Sys2Proof.Machine

open WeierstrassCurve.Affine

/-! ### Points of the Weierstrass curve -/

/-- The curve y² = x³ + ax + b over the integers modulo m (R20). -/
def Curve.weierstrass (c : Curve) : WeierstrassCurve.Affine (ZMod c.m) :=
  { a₁ := 0, a₂ := 0, a₃ := 0, a₄ := c.a, a₆ := c.b }

theorem equation_weierstrass_iff (c : Curve) (x y : Nat) : c.weierstrass.Equation x y ↔ onCurve x y c = true := by
  rw [onCurve_iff, WeierstrassCurve.Affine.equation_iff]
  simp [Curve.weierstrass]

section
variable (c : Curve)

theorem negY_weierstrass (x y : ZMod c.m) : c.weierstrass.negY x y = -y := by
  simp [Curve.weierstrass]

theorem addX_weierstrass (x1 x2 s : ZMod c.m) : c.weierstrass.addX x1 x2 s = s * s - x1 - x2 := by
  simp [Curve.weierstrass, sq]

theorem addY_weierstrass (x1 x2 y1 s : ZMod c.m) :
    c.weierstrass.addY x1 x2 y1 s = s * (x1 - c.weierstrass.addX x1 x2 s) - y1 := by
  rw [addY, negAddY, negY_weierstrass]
  ring

theorem tangent_weierstrass [Fact c.m.Prime] (x : ZMod c.m) {y : ZMod c.m} (hy : y ≠ -y) :
    c.weierstrass.slope x x y y = (3 * (x * x) + c.a) / (2 * y) := by
  rw [slope_of_Y_ne rfl (by rwa [negY_weierstrass]), negY_weierstrass]
  simp [Curve.weierstrass, sq, two_mul]

end

/-- The model's point stands for the curve's point `Q`: the same coordinates, as residues below m. -/
inductive Represents (c : Curve) : Pt → c.weierstrass.Point → Prop
  | inf : Represents c .inf 0
  | aff {x y : Nat} (hx : x < c.m) (hy : y < c.m) (h : c.weierstrass.Nonsingular x y) :
      Represents c (.aff x y) (.some _ _ h)

section
variable {c : Curve} {p : Pt} {Q : c.weierstrass.Point}

theorem Represents.isOn (h : Represents c p Q) : p.isOn c := by
  cases h with
  | inf => trivial
  | aff hx hy h => exact ⟨hx, hy, (equation_weierstrass_iff c _ _).1 h.1⟩

theorem represents_some {x y : Nat} {X Y : ZMod c.m} (hx : x < c.m) (hy : y < c.m) (hX : (x : ZMod c.m) = X)
    (hY : (y : ZMod c.m) = Y) (h : c.weierstrass.Nonsingular X Y) : Represents c (.aff x y) (.some X Y h) := by
  subst hX hY
  exact .aff hx hy h

theorem represents_inf (h : Represents c .inf Q) : Q = 0 := by
  cases h with
  | inf => rfl

end

/-! ### The addition law over a prime modulus (R261-R265) -/

section Prime
variable {c : Curve} [hm : Fact c.m.Prime]

/-- What stands for the same point as `(x, y)`, or for the opposite one, has coordinates, and its x is the same. -/
theorem represents_same_x {x y : Nat} {q : Pt} {Q R : c.weierstrass.Point} (hp : Represents c (.aff x y) Q)
    (hq : Represents c q R) (h : R = Q ∨ R = -Q) : ∃ y', q = .aff x y' := by
  cases hp with
  | aff hx _ hxy =>
  cases hq with
  | inf =>
    obtain h | h := h
    · exact absurd h.symm (Point.some_ne_zero hxy)
    · exact absurd (neg_eq_zero.1 h.symm) (Point.some_ne_zero hxy)
  | aff hx' _ hxy' => exact ⟨_, by rw [eq_of_natCast_eq hx' hx (Point.X_eq_iff.2 h)]⟩

/-- The third point of a line of Mathlib's slope is the sum (R263, R264). -/
theorem chordPoint_represents {s x1 y1 x2 y2 x3 : Nat} (hy1 : y1 < c.m) (hx3 : x3 < c.m)
    (hs : (s : ZMod c.m) = c.weierstrass.slope x1 x2 y1 y2) (hX : (x3 : ZMod c.m) = s * s - x1 - x2)
    (h1 : c.weierstrass.Nonsingular x1 y1) (h2 : c.weierstrass.Nonsingular x2 y2)
    (hxy : ¬((x1 : ZMod c.m) = x2 ∧ (y1 : ZMod c.m) = c.weierstrass.negY x2 y2)) :
    Represents c (chordPoint s x1 y1 x3 c.m) (.some _ _ h1 + .some _ _ h2) := by
  rw [← addX_weierstrass, hs] at hX
  rw [Point.add_some hxy]
  refine represents_some hx3 (fsub_lt _ _ hm.out.pos) hX ?_ _
  rw [natCast_fsub _ hy1.le, natCast_fmul, natCast_fsub _ hx3.le, addY_weierstrass, ← hX, ← hs]

theorem doublePoint_represents {x y : Nat} (hy : y < c.m) (h : c.weierstrass.Nonsingular x y)
    (h0 : fadd y y c.m ≠ 0) :
    ∃ q, doublePoint x y c = .ok q ∧ Represents c q (.some _ _ h + .some _ _ h) := by
  have hden : fmul 2 y c.m ≠ 0 := by rwa [fmul, Nat.two_mul]
  have h2y : (2 * y : ZMod c.m) ≠ 0 := by simpa using natCast_ne_zero hden (fmul_lt 2 y hm.out.pos)
  have hneg : (y : ZMod c.m) ≠ -y := fun h => h2y (by rw [two_mul, ← eq_neg_iff_add_eq_zero, ← h])
  obtain ⟨s, hs, hslope⟩ := natCast_fdiv (a := fadd (fmul 3 (fmul x x c.m) c.m) c.a c.m) hm.out hden
    (fmul_lt _ _ hm.out.pos)
  refine ⟨_, by rw [doublePoint, hs]; rfl, chordPoint_represents hy (fsub_lt _ _ hm.out.pos) ?_ ?_ h h
    fun h => hneg (h.2.trans (negY_weierstrass c _ _))⟩
  · rw [tangent_weierstrass c _ hneg, eq_div_iff h2y]
    simpa using hslope
  · rw [natCast_fsub _ (fmul_lt 2 x hm.out.pos).le, natCast_fmul, natCast_fmul, Nat.cast_ofNat, two_mul, sub_sub]

theorem addDistinct_represents {x1 y1 x2 y2 : Nat} (hx1 : x1 < c.m) (hy1 : y1 < c.m) (hx2 : x2 < c.m) (hy2 : y2 < c.m)
    (h1 : c.weierstrass.Nonsingular x1 y1) (h2 : c.weierstrass.Nonsingular x2 y2) (hne : x1 ≠ x2) :
    ∃ q, addDistinct x1 y1 x2 y2 c = .ok q ∧ Represents c q (.some _ _ h1 + .some _ _ h2) := by
  have hdiff : (x1 : ZMod c.m) ≠ x2 := fun h => hne (eq_of_natCast_eq hx1 hx2 h)
  obtain ⟨s, hs, hslope⟩ := natCast_fdiv (a := fsub y1 y2 c.m) hm.out (fsub_ne_zero hx1 hx2 hne)
    (fsub_lt _ _ hm.out.pos)
  rw [natCast_fsub _ hx2.le, natCast_fsub _ hy2.le] at hslope
  refine ⟨_, by rw [addDistinct, hs]; rfl, chordPoint_represents hy1 (fsub_lt _ _ hm.out.pos) ?_ ?_ h1 h2
    fun h => hdiff h.1⟩
  · rw [slope_of_X_ne hdiff, eq_div_iff (sub_ne_zero.2 hdiff), hslope]
  · rw [natCast_fsub _ hx2.le, natCast_fsub _ hx1.le, natCast_fmul]

/-- `padd` never raises between points of the curve's group, and answers their sum. -/
theorem padd_represents {p1 p2 : Pt} {Q1 Q2 : c.weierstrass.Point} (h1 : Represents c p1 Q1)
    (h2 : Represents c p2 Q2) : ∃ q, padd p1 p2 c = .ok q ∧ Represents c q (Q1 + Q2) := by
  have hon1 := h1.isOn
  have hon2 := h2.isOn
  cases h1 with
  | inf => exact ⟨p2, padd_inf_left p2 c, by rwa [zero_add]⟩
  | @aff x1 y1 hx1 hy1 h1 =>
  cases h2 with
  | inf => exact ⟨_, padd_inf_right _ c, by rw [add_zero]; exact .aff hx1 hy1 h1⟩
  | @aff x2 y2 hx2 hy2 h2 =>
  by_cases hx : x1 = x2
  · subst hx
    by_cases hopp : fadd y1 y2 c.m = 0
    · have hneg : (y1 : ZMod c.m) = c.weierstrass.negY x1 y2 := by
        have hsum : (y1 + y2 : ZMod c.m) = 0 := by rw [← natCast_fadd, hopp, Nat.cast_zero]
        rw [negY_weierstrass, eq_neg_of_add_eq_zero_left hsum]
      exact ⟨.inf, padd_of_opposite x1 hopp, by rw [Point.add_of_Y_eq rfl hneg]; exact .inf⟩
    · obtain rfl : y1 = y2 := by
        by_contra hne
        exact hopp (opposite_of_same_x hm.out hon1 hon2 hne)
      rw [padd_of_double hopp]
      exact doublePoint_represents hy1 h1 hopp
  · rw [padd_of_ne hx]
    exact addDistinct_represents hx1 hy1 hx2 hy2 h1 h2 hx

/-! ### Double-and-add (R266) -/

theorem addBit_represents {result current : Pt} {Q R : c.weierstrass.Point} (k : Nat) (hr : Represents c result R)
    (hc : Represents c current Q) :
    ∃ q, addBit k result current c = .ok q ∧ Represents c q (R + (k % 2) • Q) := by
  obtain hk | hk := Nat.mod_two_eq_zero_or_one k
  · exact ⟨result, by simp [addBit, hk], by rwa [hk, zero_nsmul, add_zero]⟩
  · obtain ⟨q, hq, h⟩ := padd_represents hr hc
    exact ⟨q, by simpa [addBit, hk] using hq, by rwa [hk, one_nsmul]⟩

/-- The loop answers result + k·current. -/
theorem scalarLoop_represents (k : Nat) {result current : Pt} {Q R : c.weierstrass.Point}
    (hr : Represents c result R) (hc : Represents c current Q) :
    ∃ q, scalarLoop c result current k = .ok q ∧ Represents c q (R + k • Q) := by
  induction k using Nat.strong_induction_on generalizing result current Q R with
  | _ k ih =>
  obtain rfl | hk := Nat.eq_zero_or_pos k
  · exact ⟨result, scalarLoop_zero c result current, by rwa [zero_nsmul, add_zero]⟩
  obtain ⟨result', hadd, hr'⟩ := addBit_represents k hr hc
  obtain ⟨current', hdbl, hc'⟩ := padd_represents hc hc
  obtain ⟨q, hq, h⟩ := ih (k / 2) (Nat.div_lt_self hk one_lt_two) hr' hc'
  have hsum : R + (k % 2) • Q + (k / 2) • (Q + Q) = R + k • Q := by
    rw [← two_nsmul, ← mul_nsmul', add_assoc, ← add_nsmul, Nat.mul_comm, Nat.mod_add_div]
  exact ⟨q, by rw [scalarLoop_of_pos c _ _ hk, hadd, ok_bind, hdbl, ok_bind, hq], hsum ▸ h⟩

/-- `pmul` never raises on a point of the curve's group, and answers its multiple. -/
theorem pmul_represents (k : Nat) {p : Pt} {Q : c.weierstrass.Point} (hp : Represents c p Q) :
    ∃ q, pmul k p c = .ok q ∧ Represents c q (k • Q) := by
  simpa [pmul_eq_scalarLoop] using scalarLoop_represents k .inf hp

end Prime

end Sys2Proof.Machine
end

section
/-!
The multiples of G (O48; 42_ecdsa.md R301, R303): G generates a group of the prime order N.
-/

namespace Sys2Proof.Machine

open WeierstrassCurve.Affine

theorem genG_nonsingular : secp.weierstrass.Nonsingular (Config.Gx : ZMod secp.m) (Config.Gy : ZMod secp.m) := by
  refine (nonsingular_iff' _ _).2 ⟨(equation_weierstrass_iff secp _ _).2 genG_isOn.2.2, .inr ?_⟩
  have h2y : ((2 * Config.Gy % secp.m : Nat) : ZMod secp.m) ≠ 0 :=
    natCast_ne_zero (by decide) (Nat.mod_lt _ prime_P.pos)
  simpa [Curve.weierstrass] using h2y

/-- The generator G as a point of the curve's group (R12). -/
def genPoint : secp.weierstrass.Point := .some _ _ genG_nonsingular

theorem genG_represents : Represents secp genG genPoint := .aff genG_isOn.1 genG_isOn.2.1 genG_nonsingular

section
variable [hm : Fact secp.m.Prime]

/-- What `pmul` answers for the generator is its multiple. -/
theorem represents_of_pmul_genG {k : Nat} {p : Pt} (h : pmul k genG secp = .ok p) :
    Represents secp p (k • genPoint) := by
  obtain ⟨q, hq, hr⟩ := pmul_represents k genG_represents
  rwa [Except.ok.inj (h.symm.trans hq)]

variable [hN : Fact Config.N.Prime]

/-- N·G = INF (R270) and N is prime. -/
theorem addOrderOf_genPoint : addOrderOf genPoint = Config.N := by
  refine addOrderOf_eq_prime ?_ (Point.some_ne_zero _)
  exact represents_inf (represents_of_pmul_genG pmul_order_genG)

theorem nsmul_genPoint_eq_of_cast {a b : Nat} (h : (a : ZMod Config.N) = b) : a • genPoint = b • genPoint := by
  rw [nsmul_eq_nsmul_iff_modEq, addOrderOf_genPoint]
  exact (ZMod.natCast_eq_natCast_iff _ _ _).1 h

end

theorem multiple_of_G {k : Nat} (h1 : 1 ≤ k) (hN : k < Config.N) :
    ∃ x y, pmul k genG secp = .ok (.aff x y) ∧ (Pt.aff x y).isOn secp := by
  have : Fact secp.m.Prime := ⟨prime_P⟩
  obtain ⟨q, hq, h⟩ := pmul_represents k genG_represents
  cases q with
  | aff x y => exact ⟨x, y, hq, h.isOn⟩
  | inf =>
    have hdvd := addOrderOf_dvd_of_nsmul_eq_zero (represents_inf h)
    have : Fact Config.N.Prime := ⟨prime_N⟩
    rw [addOrderOf_genPoint] at hdvd
    exact absurd (Nat.le_of_dvd h1 hdvd) (by omega)

/-- Settles O48: below its prime order no multiple of G is the neutral element. -/
theorem noScalarBelowOrderGivesInfinity : Obligations.NoScalarBelowOrderGivesInfinity :=
  fun _ => multiple_of_G

end Sys2Proof.Machine
end

section
/-!
Every signature verifies under the key's public point (O47; 42_ecdsa.md R307): the point that R306 computes is k·G or -k·G
for the nonce k, whose x coordinate gave r.
-/

namespace Sys2Proof.Machine

/-! ### The residues modulo N -/

section Residues
variable [hN : Fact Config.N.Prime]

/-- Fermat's inverse (R303, R306). -/
theorem pow_mul_self_modN {a : ZMod Config.N} (h : a ≠ 0) : a ^ (Config.N - 2) * a = 1 := by
  rw [← pow_succ, show Config.N - 2 + 1 = Config.N - 1 by decide, ZMod.pow_card_sub_one_eq_one h]

/-- The s half times the nonce is r·e + z. -/
theorem fullS_mul_nonce (e z r : Nat) {k : Nat} (hk : (k : ZMod Config.N) ≠ 0) :
    (fullS e z k r : ZMod Config.N) * k = r * e + z := by
  rw [fullS, ZMod.natCast_mod]
  push_cast
  rw [mul_assoc, pow_mul_self_modN hk, mul_one]

theorem lowS_cast {t : Nat} (ht : t < Config.N) :
    (lowS t : ZMod Config.N) = t ∨ (lowS t : ZMod Config.N) = -t := by
  unfold lowS
  split
  · exact .inr (by rw [Nat.cast_sub ht.le, ZMod.natCast_self, zero_sub])
  · exact .inl rfl

/-- The scalars of R306 for a key e: u + v·e is the nonce or its negative, as s is t or its negative. -/
theorem verify_scalars_eq_nonce {e z k r s t : ZMod Config.N} (hs0 : s ≠ 0) (hs : s = t ∨ s = -t)
    (ht : t * k = r * e + z) :
    z * s ^ (Config.N - 2) + r * s ^ (Config.N - 2) * e = k ∨
      z * s ^ (Config.N - 2) + r * s ^ (Config.N - 2) * e = -k := by
  have hinv := pow_mul_self_modN hs0
  obtain rfl | rfl := hs
  · exact .inl (by linear_combination k * hinv - s ^ (Config.N - 2) * ht)
  · exact .inr (by linear_combination -k * hinv - (-t) ^ (Config.N - 2) * ht)

end Residues

/-! ### The point of R306 -/

section Points
variable [hm : Fact secp.m.Prime] [hN : Fact Config.N.Prime]

theorem nsmul_genPoint_eq_neg_of_cast {a b : Nat} (h : (a : ZMod Config.N) = -b) :
    a • genPoint = -(b • genPoint) := by
  refine eq_neg_of_add_eq_zero_left ?_
  rw [← add_nsmul, nsmul_genPoint_eq_of_cast (b := 0) (by rw [Nat.cast_add, h]; simp), zero_nsmul]

/-- The sum of R306 where the scalars add up to ±k: the point has the x coordinate of k·G. -/
theorem verify_sum_same_x {e k u v x y : Nat} {pub : Pt} (hpub : pmul e genG secp = .ok pub)
    (hk : pmul k genG secp = .ok (.aff x y))
    (h : (u + v * e : ZMod Config.N) = k ∨ (u + v * e : ZMod Config.N) = -k) :
    ∃ p1 p2 y', pmul u genG secp = .ok p1 ∧ pmul v pub secp = .ok p2 ∧ padd p1 p2 secp = .ok (.aff x y') := by
  obtain ⟨p1, hp1, hr1⟩ := pmul_represents u genG_represents
  obtain ⟨p2, hp2, hr2⟩ := pmul_represents v (represents_of_pmul_genG hpub)
  obtain ⟨q, hq, hr⟩ := padd_represents hr1 hr2
  rw [← mul_nsmul', ← add_nsmul] at hr
  obtain ⟨y', rfl⟩ : ∃ y', q = .aff x y' := by
    refine represents_same_x (represents_of_pmul_genG hk) hr (h.imp (fun h => ?_) fun h => ?_)
    · exact nsmul_genPoint_eq_of_cast (by exact_mod_cast h)
    · exact nsmul_genPoint_eq_neg_of_cast (by exact_mod_cast h)
  exact ⟨p1, p2, y', hp1, hp2, hq⟩

end Points

/-- The signature of an accepted candidate verifies (R307). -/
theorem signWith_verifies {e z k r s : Nat} {pub : Pt} (hpub : pmul e genG secp = .ok pub)
    (h : signWith e z k = some (r, s)) : verifySig pub z r s = true := by
  have : Fact secp.m.Prime := ⟨prime_P⟩
  have : Fact Config.N.Prime := ⟨prime_N⟩
  obtain ⟨hr1, hrN, hs1, hsN⟩ := signWith_limits h
  obtain ⟨x, y, hk1, hkN, hk, hr, -, -, hs⟩ := signWith_some h
  dsimp only at hr1 hrN hs1 hsN
  have hs0 : (s : ZMod Config.N) ≠ 0 := natCast_ne_zero (by omega) (by omega)
  have hscalars := verify_scalars_eq_nonce hs0 (hs ▸ lowS_cast (fullS_lt e z k r))
    (fullS_mul_nonce e z r (natCast_ne_zero (by omega) hkN))
  obtain ⟨p1, p2, y', hp1, hp2, hsum⟩ := verify_sum_same_x (u := z * s ^ (Config.N - 2) % Config.N)
    (v := r * s ^ (Config.N - 2) % Config.N) hpub hk (by simpa only [ZMod.natCast_mod, Nat.cast_mul, Nat.cast_pow])
  rw [verifySig_of_point hp1 hp2 ⟨hr1, hrN⟩ ⟨hs1, by omega⟩ hsum, decide_eq_true_eq, hr]

/-- Settles O47: every signature for a key is that of an accepted nonce. -/
theorem signaturesVerify : Obligations.SignaturesVerify := by
  intro e z pub h1 hN hpub
  refine ⟨fun fn => ?_, fun k r s h => signWith_verifies hpub h⟩
  obtain ⟨k, hk⟩ := signDigest_accepted fn z (by rw [Nat.mod_eq_of_lt hN]; omega)
  exact signWith_verifies hpub hk

end Sys2Proof.Machine
end

section
/-!
The encodings are read back by the parsers (O52, O53; 43_codec.md R351, R352, R361, R362, R366), and the commands that write
them to BUF (O49; R353, R363; 20_memory.md R111).
-/

namespace Sys2Proof.Machine

/-! ### SEC (R351, R352) -/

theorem secRoot_lt (x : Nat) : secRoot x < Config.P := by
  rw [secRoot_eq]
  exact Nat.mod_lt _ prime_P.pos

/-- A point of SECP: coordinates below P that satisfy y² = x³ + 7 (R20, R252). -/
theorem isOn_secp_iff {x y : Nat} :
    (Pt.aff x y).isOn secp ↔ x < Config.P ∧ y < Config.P ∧ y ^ 2 % Config.P = (x ^ 3 + 7) % Config.P := by
  rw [← onCurve_secp_iff]
  exact Iff.rfl

section Point
variable {x y : Nat} (h : (Pt.aff x y).isOn secp)
include h

/-- P = 3 mod 4, so the power (P + 1)/4 of a square has that square: by Fermat, y^(P + 1) = y². -/
theorem secRoot_sq_of_isOn : (secRoot x : ZMod Config.P) ^ 2 = (y : ZMod Config.P) ^ 2 := by
  have := Fact.mk prime_P
  obtain ⟨-, hy, ho⟩ := isOn_secp_iff.1 h
  have hcurve : ((x ^ 3 + 7 : Nat) : ZMod Config.P) = (y : ZMod Config.P) ^ 2 := by
    rw [← Nat.cast_pow]
    exact ((ZMod.natCast_eq_natCast_iff' _ _ _).2 ho).symm
  have hexp : 2 * ((Config.P + 1) / 4 * 2) = Config.P - 1 + 2 := by decide
  calc (secRoot x : ZMod Config.P) ^ 2
      = (((y : ZMod Config.P) ^ 2) ^ ((Config.P + 1) / 4)) ^ 2 := by
        rw [secRoot_eq, ZMod.natCast_mod, Nat.cast_pow, hcurve]
    _ = (y : ZMod Config.P) ^ (Config.P - 1) * (y : ZMod Config.P) ^ 2 := by
        rw [← pow_mul, ← pow_mul, hexp, pow_add]
    _ = (y : ZMod Config.P) ^ 2 := by
        rw [ZMod.pow_card_sub_one_eq_one (natCast_ne_zero (secp_y_ne_zero h) hy), one_mul]

/-- The candidate of R352 for the x of a point is its y or the negative of its y. -/
theorem secRoot_of_isOn : secRoot x = y ∨ secRoot x = Config.P - y := by
  have := Fact.mk prime_P
  obtain ⟨-, hy, -⟩ := isOn_secp_iff.1 h
  have hneg : Config.P - y < Config.P := Nat.sub_lt prime_P.pos (Nat.pos_of_ne_zero (secp_y_ne_zero h))
  refine (sq_eq_sq_iff_eq_or_eq_neg.1 (secRoot_sq_of_isOn h)).imp (eq_of_natCast_eq (secRoot_lt x) hy) fun hr => ?_
  refine eq_of_natCast_eq (secRoot_lt x) hneg ?_
  rw [hr, Nat.cast_sub hy.le, ZMod.natCast_self, zero_sub]

/-- P is odd, so y and P - y differ in parity, and the parity of y selects y. -/
theorem secSelectY_of_isOn : secSelectY x (y % 2) = y := by
  have hodd : Config.P % 2 = 1 := by decide
  have hy0 := secp_y_ne_zero h
  obtain ⟨-, hy, -⟩ := isOn_secp_iff.1 h
  rw [secSelectY_eq]
  obtain hr | hr := secRoot_of_isOn h <;> rw [hr]
  · exact if_pos rfl
  · rw [if_neg (by omega), Nat.sub_sub_self hy.le, Nat.mod_eq_of_lt hy]

theorem secDec_secEnc_uncompressed : secDec (secEnc (.aff x y) .uncompressed) = .ok (x, y) := by
  obtain ⟨hx, hy, ho⟩ := isOn_secp_iff.1 h
  rw [secEnc_uncompressed, secDec_cons_04, secDecUncompressed_eq _ (by simp), List.take_left' (be_length 32 x),
    List.drop_left' (be_length 32 x), intBe_be 32 x (lt_width_of_lt_P hx), intBe_be 32 y (lt_width_of_lt_P hy),
    if_neg (not_or.2 ⟨hx.not_ge, hy.not_ge⟩), if_pos ho]

theorem secDec_secEnc_compressed : secDec (secEnc (.aff x y) .compressed) = .ok (x, y) := by
  obtain ⟨hx, -, ho⟩ := isOn_secp_iff.1 h
  rw [secEnc_compressed, secDec_compressed (Nat.mod_lt y two_pos), secDecCompressed_eq _ _ (be_length 32 x),
    intBe_be 32 x (lt_width_of_lt_P hx), secSelectY_of_isOn h, if_neg hx.not_ge, if_pos ho]

end Point

/-- Settles O52: a lemma for each form. -/
theorem secRoundTrip : Obligations.SecRoundTrip := by
  intro x y form h
  cases form with
  | compressed => exact secDec_secEnc_compressed h
  | uncompressed => exact secDec_secEnc_uncompressed h

/-! ### DER (R361, R362) -/

/-- The signature's bytes in the shape the parser accepts. -/
theorem derEnc_eq_contents (r s : Nat) :
    derEnc r s = [0x30, BitVec.ofNat 8 ((derContent r).length + (derContent s).length + 4), 0x02,
      BitVec.ofNat 8 (derContent r).length] ++ derContent r ++
        ([0x02, BitVec.ofNat 8 (derContent s).length] ++ derContent s) := by
  have hlen : (derInt r ++ derInt s).length = (derContent r).length + (derContent s).length + 4 := by
    simp only [derInt_eq, List.length_append, List.length_cons]
    omega
  rw [derEnc_eq, hlen, derInt_eq, derInt_eq]
  simp only [List.cons_append, List.nil_append]

/-- Settles O53: the encoding has the parser's shape, its lengths fit in a byte, and each content has its value. -/
theorem derRoundTrip : Obligations.DerRoundTrip := by
  intro r s hr hs
  have hlr := derContent_length_le r
  have hls := derContent_length_le s
  exact derDec_eq_ok_iff.2 ⟨derContent r, derContent s, by omega, derEnc_eq_contents r s, intBe_derContent hr,
    intBe_derContent hs⟩

/-! ### SECENC and DERENC (R353, R363) -/

variable {s : State} {rd ra rb rc : RegIdx}

theorem exec_secenc_of_ok {p : Pt} {c : CurveSel} {addr : Nat} {form : SecForm} (hp : s.qpt ra = .ok (p, c))
    (ha : s.rint rb = .ok addr) (hc : s.curveOf c = secp) (hfit : addr + (secEnc p form).length ≤ Config.bufSize) :
    exec (.secenc rd ra rb form) s = .next (s.putBytes rd addr (secEnc p form)).finish := by
  simp [exec, execSecenc, State.command_next, hp, ha, hc, rangeCheck_of_le hfit]

theorem exec_derenc_of_ok {r x addr : Nat} (hr : s.rint ra = .ok r) (hx : s.rint rb = .ok x)
    (ha : s.rint rc = .ok addr) (hfit : addr + (derEnc r x).length ≤ Config.bufSize) :
    exec (.derenc rd ra rb rc) s = .next (s.putBytes rd addr (derEnc r x)).finish := by
  simp [exec, execDerenc, State.command_next, hr, hx, ha, rangeCheck_of_le hfit]

/-- What the completed write of a byte string leaves: its bytes in BUF and its length in RD (R111, R502). -/
theorem putBytes_finish_results (s : State) (rd : RegIdx) {addr : Nat} {bs : Bytes}
    (hfit : addr + bs.length ≤ Config.bufSize) :
    let t := (s.putBytes rd addr bs).finish
    t.done = true ∧ t.busy = false ∧ t.err = s.err ∧ t.errcode = s.errcode ∧
      t.getR rd = { tag := .int, val := toW bs.length } ∧
      ∀ a, t.readByte a = if addr ≤ a ∧ a < addr + bs.length then bs.getD (a - addr) 0 else s.readByte a := by
  refine ⟨rfl, rfl, ?err, ?errcode, ?reg, fun a => ?byte⟩
  case err => simp
  case errcode => simp
  case reg => rw [State.getR_finish, State.getR_putBytes, if_pos rfl]
  case byte =>
    rw [State.readByte_finish, State.putBytes, State.readByte_setInt, State.readByte_memWrite s addr bs a hfit]

/-- Settles O49: both commands complete the write of their encoding. -/
theorem encoderResults : Obligations.EncoderResults := fun s rd _ _ _ =>
  ⟨fun _ _ _ _ hp ha hc hfit => ⟨_, exec_secenc_of_ok hp ha hc hfit, putBytes_finish_results s rd hfit⟩,
    fun _ _ _ hr hx ha hfit => ⟨_, exec_derenc_of_ok hr hx ha hfit, putBytes_finish_results s rd hfit⟩⟩

end Sys2Proof.Machine
end

section
/-!
The script unit (O30, O55 to O60; 44_script.md R400-R422): parsing and serialising, one script command inside an evaluation,
SEVAL, the bounds of the stack, and SEVAL as the run of its commands.
-/

namespace Sys2Proof.Machine

/-! ### Parsing and serialising (R402, R403, R405) -/

theorem parseScript_nil : parseScript [] = .ok [] := rfl

theorem serializeScript_cons (c : ScriptCmd) (cs : List ScriptCmd) :
    serializeScript (c :: cs) = c.bytes ++ serializeScript cs := rfl

theorem parseScript_serializeScript {cs : List ScriptCmd} (h : ∀ c ∈ cs, c.wellFormed = true) :
    parseScript (serializeScript cs) = .ok cs := by
  induction cs with
  | nil => exact parseScript_nil
  | cons c cs ih =>
    obtain ⟨hc, hcs⟩ := List.forall_mem_cons.1 h
    rw [serializeScript_cons, parseScript_of_front (decodeScriptCmd_bytes c _ hc), ih hcs]
    rfl

/-- A string that parses is empty, or a script command and a string that parses (R402). -/
theorem parseScript_ok {d : Bytes} {cs : List ScriptCmd} (h : parseScript d = .ok cs) :
    (d = [] ∧ cs = []) ∨
      ∃ c rest cs', decodeScriptCmd d = .ok (c, rest) ∧ parseScript rest = .ok cs' ∧ cs = c :: cs' := by
  cases d with
  | nil => cases h; exact .inl ⟨rfl, rfl⟩
  | cons b d =>
    cases hd : decodeScriptCmd (b :: d) with
    | error e => rw [parseScript_of_error hd] at h; cases h
    | ok front =>
      obtain ⟨c, rest⟩ := front
      rw [parseScript_of_front hd] at h
      cases hr : parseScript rest with
      | error e => rw [hr] at h; cases h
      | ok cs' => rw [hr] at h; cases h; exact .inr ⟨c, rest, cs', rfl, hr, rfl⟩

theorem serializeScript_of_parseScript {d : Bytes} {cs : List ScriptCmd} (h : parseScript d = .ok cs) :
    serializeScript cs = d ∧ ∀ c ∈ cs, c.wellFormed = true := by
  induction cs generalizing d with
  | nil =>
    obtain ⟨rfl, -⟩ | ⟨_, _, _, -, -, hcs⟩ := parseScript_ok h
    · exact ⟨rfl, List.forall_mem_nil _⟩
    · cases hcs
  | cons c cs ih =>
    obtain ⟨-, hcs⟩ | ⟨_, rest, _, hd, hr, hcs⟩ := parseScript_ok h <;> cases hcs
    obtain ⟨hs, hw⟩ := ih hr
    obtain ⟨hc, rfl⟩ := decodeScriptCmd_ok hd
    exact ⟨by rw [serializeScript_cons, hs], List.forall_mem_cons.2 ⟨hc, hw⟩⟩

/-- Settles O57: one induction over the commands for each direction. -/
theorem scriptRoundTrip : Obligations.ScriptRoundTrip :=
  ⟨fun _ h => parseScript_serializeScript h, fun _ _ h => serializeScript_of_parseScript h⟩

/-! ### One script command inside an evaluation (R411, R413) -/

section OneCommand

variable {s : State} {ev : Eval} {c : ScriptCmd}

/-- The script commands are one meaning: a step of the evaluation by `stackStep` (R413). -/
theorem exec_toInstr (c : ScriptCmd) (s : State) :
    exec c.toInstr s = s.scriptStep fun ev => stackStep s.params.sighash ev.z.toNat ev.stack c := by
  cases c with
  | push d => rfl
  | op o => cases o <;> rfl

theorem exists_toInstr_of_isScript {i : Instr} (h : isScript i = true) : ∃ c : ScriptCmd, c.toInstr = i := by
  cases i with
  | push d => exact ⟨.push d, rfl⟩
  | opDup => exact ⟨.op .dup, rfl⟩
  | opEqual => exact ⟨.op .equal, rfl⟩
  | opEqualverify => exact ⟨.op .equalverify, rfl⟩
  | opHash160 => exact ⟨.op .hash160, rfl⟩
  | opChecksig => exact ⟨.op .checksig, rfl⟩
  | _ => cases h

/-- A command that succeeds leaves its stack and advances the index (R411). -/
theorem exec_toInstr_of_some (he : s.eval = some ev) {st : Stack}
    (h : stackStep s.params.sighash ev.z.toNat ev.stack c = some st) :
    exec c.toInstr s = .next { s with eval := some { ev with stack := st, pc := ev.pc + 1 } } := by
  simp only [exec_toInstr, State.scriptStep, he, h]

/-- A command that fails completes SEVAL with verdict 0 (R413, R507). -/
theorem exec_toInstr_of_none (he : s.eval = some ev)
    (h : stackStep s.params.sighash ev.z.toNat ev.stack c = none) :
    exec c.toInstr s = .next (s.setInt ev.rd 0).finish := by
  simp only [exec_toInstr, State.scriptStep, he, h, State.finishEval_eq, Bool.toNat_false]

/-- Settles O30: the evaluation goes on, and nothing else changes, or the verdict register is written and SEVAL completes. -/
theorem frameScriptCommands : Obligations.FrameScriptCommands := by
  intro i s t ev hi he h
  obtain ⟨c, rfl⟩ := exists_toInstr_of_isScript hi
  obtain ⟨ev', he', rfl | ⟨ev'', rfl⟩⟩ := exec_toInstr_cases h
  · obtain rfl : ev = ev' := Option.some.inj (he.symm.trans he')
    obtain ⟨hr, hq, hb, hu, hk, hc, hdone, hpending, -, -⟩ := commandFrame_setR s ev.rd .int 0
    exact ⟨hr, hq, hb, hu, hk, hc, rfl, rfl, rfl, fun _ => ⟨hdone, hpending⟩, fun hne => absurd rfl hne⟩
  · exact ⟨fun _ _ => rfl, fun _ _ => rfl, fun _ => rfl, ⟨rfl, rfl, rfl, rfl, rfl⟩, ⟨rfl, rfl, rfl, rfl⟩,
      ⟨rfl, rfl, rfl, rfl, rfl, rfl, rfl⟩, rfl, rfl, rfl, nofun, fun _ => rfl⟩

end OneCommand

/-! ### The commands' results (R414-R419) -/

theorem markerOk_iff (policy : SighashPolicy) (sig : Bytes) :
    markerOk policy sig = true ↔ (policy = .require01 → sig.getLast? = some 0x01) := by
  cases policy <;> simp [markerOk]

theorem checkSig_of_ok {policy : SighashPolicy} {pk sig : Bytes} {x y r n : Nat} (z : Nat) (hne : sig ≠ [])
    (hm : policy = .require01 → sig.getLast? = some 0x01) (hp : secDec pk = .ok (x, y))
    (hs : derDec sig.dropLast = .ok (r, n)) : checkSig policy z pk sig = some (verifySig (.aff x y) z r n) := by
  simp [checkSig, hne, (markerOk_iff policy sig).2 hm, hp, hs]

/-- What ends OP_CHECKSIG without a verdict (R419). -/
theorem checkSig_eq_none {policy : SighashPolicy} {pk sig : Bytes} (z : Nat)
    (h : sig = [] ∨ (policy = .require01 ∧ sig.getLast? ≠ some 0x01) ∨ (∃ e, secDec pk = .error e) ∨
      ∃ e, derDec sig.dropLast = .error e) : checkSig policy z pk sig = none := by
  obtain rfl | ⟨hp, hm⟩ | ⟨e, he⟩ | ⟨e, he⟩ := h
  · rfl
  · have hbad : markerOk policy sig = false := Bool.eq_false_iff.2 fun h => hm ((markerOk_iff policy sig).1 h hp)
    simp [checkSig, hbad]
  · simp [checkSig, he]
  · cases hp : secDec pk <;> simp [checkSig, hp, he]

/-- Settles O56: each clause names the command's stack, or that it has none. -/
theorem scriptCommandResults : Obligations.ScriptCommandResults := by
  intro s ev he
  refine ⟨fun d => ?push, fun x st hst => ⟨?dup, ?hash160⟩, fun a b st hst => ⟨?equal, fun hab => ?same, fun hab => ?differ⟩,
    fun pk sig st x y r n hst hne hm hp hs => ?checksig, fun pk sig st hst h => ?badsig, fun hst => ⟨?_, ?_⟩,
    fun hst => ?short, fun i hi => ?outside⟩
  case push => exact exec_toInstr_of_some (c := .push d) he rfl
  case dup => exact exec_toInstr_of_some (c := .op .dup) he (by rw [hst]; rfl)
  case hash160 => exact exec_toInstr_of_some (c := .op .hash160) he (by rw [hst]; rfl)
  case equal => exact exec_toInstr_of_some (c := .op .equal) he (by simp [hst, stackStep, stackEqual, truth])
  case same => exact exec_toInstr_of_some (c := .op .equalverify) he (by rw [hst]; exact if_pos hab)
  case differ => exact exec_toInstr_of_none (c := .op .equalverify) he (by rw [hst]; exact if_neg hab)
  case checksig =>
    refine exec_toInstr_of_some (c := .op .checksig) he ?_
    rw [hst, stackStep, stackChecksig, checkSig_of_ok _ hne hm hp hs]
    rfl
  case badsig =>
    refine exec_toInstr_of_none (c := .op .checksig) he ?_
    rw [hst, stackStep, stackChecksig, checkSig_eq_none _ h]
    rfl
  · exact exec_toInstr_of_none (c := .op .dup) he (by rw [hst]; rfl)
  · exact exec_toInstr_of_none (c := .op .hash160) he (by rw [hst]; rfl)
  case short =>
    obtain hst | ⟨x, hst⟩ : ev.stack = [] ∨ ∃ x, ev.stack = [x] := by
      rw [← List.length_eq_zero_iff, ← List.length_eq_one_iff]; omega
    all_goals exact ⟨exec_toInstr_of_none (c := .op .equal) he (by rw [hst]; rfl),
      exec_toInstr_of_none (c := .op .equalverify) he (by rw [hst]; rfl),
      exec_toInstr_of_none (c := .op .checksig) he (by rw [hst]; rfl)⟩
  case outside =>
    obtain ⟨c, rfl⟩ := exists_toInstr_of_isScript hi
    rw [exec_toInstr]
    rfl

/-! ### Evaluation (R413, R422) -/

theorem evalFrom_nil (policy : SighashPolicy) (z : Nat) (st : Stack) : evalFrom policy z [] st = stackTrue st := rfl

theorem evalFrom_cons_of_some {policy : SighashPolicy} {z : Nat} {c : ScriptCmd} {st st' : Stack}
    (cs : List ScriptCmd) (h : stackStep policy z st c = some st') :
    evalFrom policy z (c :: cs) st = evalFrom policy z cs st' := by
  simp only [evalFrom, runStack, h]

theorem evalFrom_cons_of_none {policy : SighashPolicy} {z : Nat} {c : ScriptCmd} {st : Stack}
    (cs : List ScriptCmd) (h : stackStep policy z st c = none) : evalFrom policy z (c :: cs) st = false := by
  simp only [evalFrom, runStack, h]

/-- A script that ends in OP_EQUAL on two elements says whether they are equal (R416). -/
theorem evalFrom_equal (policy : SighashPolicy) (z : Nat) (a b : Bytes) (st : Stack) :
    evalFrom policy z [.op .equal] (a :: b :: st) = decide (a = b) := by
  rw [evalFrom_cons_of_some [] rfl, evalFrom_nil]
  by_cases h : a = b <;> simp [truth, stackTrue, h]

/-- Settles O58: the commands before the last one leave the stack that decides. -/
theorem scriptProperties : Obligations.ScriptProperties := by
  intro policy z x y
  have hpush : evalScript policy [.push x] z = stackTrue [x] := rfl
  have hdup : evalScript policy [.push x, .op .dup, .op .equal] z = evalFrom policy z [.op .equal] [x, x] := rfl
  have hpushes : evalScript policy [.push x, .push y, .op .equal] z = evalFrom policy z [.op .equal] [y, x] := rfl
  refine ⟨rfl, fun hx => ?_, ?_, fun hxy => ?_⟩
  · rw [hpush]; exact decide_eq_true (List.length_pos_iff.2 hx)
  · rw [hdup, evalFrom_equal]; exact decide_eq_true rfl
  · rw [hpushes, evalFrom_equal]; exact decide_eq_false hxy.symm

/-! ### The bounds of the stack (R410, R412) -/

/-- An element of the stack after a command was there before it, was pushed by it, or is a digest or a truth value. -/
theorem stackStep_mem {policy : SighashPolicy} {z : Nat} {st st' : Stack} {c : ScriptCmd} {x : Bytes}
    (h : stackStep policy z st c = some st') (hx : x ∈ st') : x ∈ st ∨ c = .push x ∨ x.length ≤ 20 := by
  have htruth (b : Bool) : (truth b).length ≤ 20 := (truth_length_le b).trans (by decide)
  cases c with
  | push d =>
    cases h
    obtain rfl | hx := List.mem_cons.1 hx
    · exact .inr (.inl rfl)
    · exact .inl hx
  | op o =>
    cases o
    case dup =>
      match st, h with
      | a :: st, h => cases h; exact .inl (by simpa using hx)
    case hash160 =>
      match st, h with
      | a :: st, h =>
        cases h
        obtain rfl | hx := List.mem_cons.1 hx
        · exact .inr (.inr (hash160_length a).le)
        · exact .inl (List.mem_cons_of_mem a hx)
    case equal =>
      match st, h with
      | a :: b :: st, h =>
        cases h
        obtain rfl | hx := List.mem_cons.1 hx
        · exact .inr (.inr (htruth _))
        · exact .inl (List.mem_cons_of_mem a (List.mem_cons_of_mem b hx))
    case equalverify =>
      match st, h with
      | a :: b :: st, h =>
        obtain ⟨-, h⟩ := Option.ite_none_right_eq_some.1 h
        cases h
        exact .inl (List.mem_cons_of_mem a (List.mem_cons_of_mem b hx))
    case checksig =>
      match st, h with
      | pk :: sig :: st, h =>
        obtain ⟨v, -, rfl⟩ := Option.map_eq_some_iff.1 h
        obtain rfl | hx := List.mem_cons.1 hx
        · exact .inr (.inr (htruth v))
        · exact .inl (List.mem_cons_of_mem pk (List.mem_cons_of_mem sig hx))

/-- A well-formed command keeps the bound on the elements: it pushes at most ELEM_MAX bytes (R161, R412). -/
theorem stackStep_elements {policy : SighashPolicy} {z : Nat} {st st' : Stack} {c : ScriptCmd}
    (hc : c.wellFormed = true) (hst : ∀ x ∈ st, x.length ≤ Config.elemMax) (h : stackStep policy z st c = some st') :
    ∀ x ∈ st', x.length ≤ Config.elemMax := by
  intro x hx
  obtain hx | rfl | hx := stackStep_mem h hx
  · exact hst x hx
  · exact (of_decide_eq_true hc).2
  · exact hx.trans (by decide)

/-- A run adds at most one element per command and keeps the bound on the elements. -/
theorem runStack_bounds {policy : SighashPolicy} {z : Nat} {cs : List ScriptCmd} {st st' : Stack}
    (hcs : ∀ c ∈ cs, c.wellFormed = true) (hst : ∀ x ∈ st, x.length ≤ Config.elemMax)
    (h : runStack policy z cs st = some st') :
    st'.length ≤ st.length + cs.length ∧ ∀ x ∈ st', x.length ≤ Config.elemMax := by
  induction cs generalizing st with
  | nil => cases h; exact ⟨le_rfl, hst⟩
  | cons c cs ih =>
    obtain ⟨hc, hcs⟩ := List.forall_mem_cons.1 hcs
    rw [runStack] at h
    cases hs : stackStep policy z st c with
    | none => rw [hs] at h; cases h
    | some st1 =>
      rw [hs] at h
      obtain ⟨hlen, hel⟩ := ih hcs (stackStep_elements hc hst hs) h
      have hlen1 := stackStep_length hs
      exact ⟨by rw [List.length_cons]; omega, hel⟩

theorem one_le_bytes_length (c : ScriptCmd) : 1 ≤ c.bytes.length := by
  cases c <;> simp [ScriptCmd.bytes]

theorem length_le_serializeScript_length (cs : List ScriptCmd) : cs.length ≤ (serializeScript cs).length := by
  induction cs with
  | nil => exact le_rfl
  | cons c cs ih =>
    have hc := one_le_bytes_length c
    rw [serializeScript_cons, List.length_append, List.length_cons]
    omega

/-- A script has at most as many commands as bytes. -/
theorem parseScript_length_le {d : Bytes} {cs : List ScriptCmd} (h : parseScript d = .ok cs) : cs.length ≤ d.length := by
  obtain ⟨rfl, -⟩ := serializeScript_of_parseScript h
  exact length_le_serializeScript_length cs

/-- Settles O59: at most 4096 commands from each script, and each adds at most one element. -/
theorem scriptStackIsBounded : Obligations.ScriptStackIsBounded := by
  intro policy z dA dB cA cB cs st hA hB hcA hcB hpre hrun
  have hw : ∀ c ∈ cs, c.wellFormed = true := fun c hc =>
    (List.mem_append.1 (hpre.subset hc)).elim ((serializeScript_of_parseScript hcA).2 c)
      ((serializeScript_of_parseScript hcB).2 c)
  obtain ⟨hlen, hel⟩ := runStack_bounds hw (List.forall_mem_nil _) hrun
  refine ⟨?_, hel⟩
  have hcs := hpre.length_le
  have hlA := parseScript_length_le hcA
  have hlB := parseScript_length_le hcB
  rw [List.length_append] at hcs
  rw [List.length_nil] at hlen
  omega

/-! ### SEVAL (R404, R420) -/

section Operands

variable {s : State} {rd ra rb rc re rz : RegIdx} {aA nA aB nB z : Nat}
  (hA : s.rint ra = .ok aA) (hnA : s.rint rb = .ok nA) (hB : s.rint rc = .ok aB) (hnB : s.rint re = .ok nB)
  (hz : s.rint rz = .ok z)
include hA hnA hB hnB hz

theorem exec_seval_of_range (hout : 4096 < aA + nA ∨ 4096 < aB + nB) :
    exec (.seval rd ra rb rc re rz) s = .next (s.fail .bufRange) := by
  by_cases hfit : aA + nA ≤ Config.bufSize
  · have hout : Config.bufSize < aB + nB := hout.resolve_left (Nat.not_lt.2 hfit)
    simp [exec, execSeval, State.command_next, hA, hnA, hB, hnB, hz, rangeCheck_of_le hfit, rangeCheck_of_gt hout]
  · simp [exec, execSeval, State.command_next, hA, hnA, hB, hnB, hz, rangeCheck_of_gt (Nat.not_le.1 hfit)]

variable (hfitA : aA + nA ≤ 4096) (hfitB : aB + nB ≤ 4096)
include hfitA hfitB

/-- With its operands in order, SEVAL parses script A, then script B, and writes the verdict of the combined commands. -/
theorem exec_seval_of_operands : exec (.seval rd ra rb rc re rz) s = s.command (do
    let cA ← parseScript (s.memRead aA nA)
    let cB ← parseScript (s.memRead aB nB)
    .ok (s.setInt rd (evalScript s.params.sighash (cA ++ cB) z).toNat)) := by
  simp only [exec, execSeval, hA, hnA, hB, hnB, hz, rangeCheck_of_le (show aA + nA ≤ Config.bufSize from hfitA),
    rangeCheck_of_le (show aB + nB ≤ Config.bufSize from hfitB), ok_bind, combineScripts]

theorem exec_seval_of_parsed {cA cB : List ScriptCmd} (hcA : parseScript (s.memRead aA nA) = .ok cA)
    (hcB : parseScript (s.memRead aB nB) = .ok cB) : exec (.seval rd ra rb rc re rz) s =
      .next (s.setInt rd (evalScript s.params.sighash (cA ++ cB) z).toNat).finish := by
  rw [exec_seval_of_operands hA hnA hB hnB hz hfitA hfitB, hcA, ok_bind, hcB]
  rfl

end Operands

/-- Settles O55: the pseudocode ends at the line that raises; with both scripts parsed it completes with the verdict. -/
theorem sevalOutcomes : Obligations.SevalOutcomes := by
  intro s rd ra rb rc re rz
  refine ⟨fun e h => ?_, fun aA hA => ⟨fun e h => ?_, fun nA hnA => ⟨fun e h => ?_, fun aB hB => ⟨fun e h => ?_,
    fun nB hnB => ⟨fun e h => ?_, fun z hz => ⟨exec_seval_of_range hA hnA hB hnB hz, fun hfitA hfitB => ?parse⟩⟩⟩⟩⟩⟩
  · simp [exec, execSeval, State.command_next, h]
  · simp [exec, execSeval, State.command_next, hA, h]
  · simp [exec, execSeval, State.command_next, hA, hnA, h]
  · simp [exec, execSeval, State.command_next, hA, hnA, hB, h]
  · simp [exec, execSeval, State.command_next, hA, hnA, hB, hnB, h]
  case parse =>
    have hexec := exec_seval_of_operands (rd := rd) hA hnA hB hnB hz hfitA hfitB
    refine ⟨fun e h => ?_, fun cA hcA => ⟨fun e h => ?_, fun cB hcB => ?_⟩⟩
    · rw [hexec, h]; rfl
    · rw [hexec, hcA, ok_bind, h]; rfl
    · rw [exec_seval_of_parsed hA hnA hB hnB hz hfitA hfitB hcA hcB]
      cases evalScript s.params.sighash (cA ++ cB) z <;> rfl

/-! ### SEVAL as the run of its commands (R413, R620; log entry 6) -/

/-- An idle engine keeps the state (R535). -/
theorem engineSteps_of_idle (n : Nat) {s : State} (h : s.pending = none) : engineSteps n s = .next s := by
  induction n with
  | zero => rfl
  | succ n ih => simp only [engineSteps, State.engineStep, h, ih]

theorem engineSteps_succ_of_next (n : Nat) {s t : State} (h : s.engineStep = .next t) :
    engineSteps (n + 1) s = engineSteps n t := by
  simp only [engineSteps, h]

/-- In an evaluation the engine runs the command at the index (R411). -/
theorem engineStep_of_command {s : State} {w : Word32} {ev : Eval} {c : ScriptCmd} (hp : s.pending = some w)
    (he : s.eval = some ev) (hnext : ev.cmds[ev.pc]? = some c) : s.engineStep = exec c.toInstr s := by
  simp only [State.engineStep, hp, he, State.runEval, hnext]

/-- With no command left the engine completes SEVAL with the verdict on the stack (R413). -/
theorem engineStep_of_end {s : State} {w : Word32} {ev : Eval} (hp : s.pending = some w) (he : s.eval = some ev)
    (hnext : ev.cmds[ev.pc]? = none) : s.engineStep = .next (s.finishEval ev (stackTrue ev.stack)) := by
  simp only [State.engineStep, hp, he, State.runEval, hnext]

/-- From an evaluation with the commands `rest` still to run, one step for each of them and one more complete SEVAL with the
verdict of those commands on the stack. -/
theorem engineSteps_of_eval {s : State} {w : Word32} {ev : Eval} {rest : List ScriptCmd} (hp : s.pending = some w)
    (hrest : ev.cmds.drop ev.pc = rest) :
    engineSteps (rest.length + 1) { s with eval := some ev } =
      .next (s.setInt ev.rd (evalFrom s.params.sighash ev.z.toNat rest ev.stack).toNat).finish := by
  induction rest generalizing ev with
  | nil =>
    have hnext : ev.cmds[ev.pc]? = none := List.getElem?_eq_none (List.drop_eq_nil_iff.1 hrest)
    exact engineSteps_succ_of_next 0 (engineStep_of_end hp rfl hnext)
  | cons c rest ih =>
    have hnext : ev.cmds[ev.pc]? = some c := by rw [← List.head?_drop, hrest]; rfl
    have hstep := engineStep_of_command (s := { s with eval := some ev }) hp rfl hnext
    cases hs : stackStep s.params.sighash ev.z.toNat ev.stack c with
    | none =>
      rw [engineSteps_succ_of_next _ (hstep.trans (exec_toInstr_of_none rfl hs)), engineSteps_of_idle _ rfl,
        evalFrom_cons_of_none _ hs]
      rfl
    | some st =>
      have hdrop : ev.cmds.drop (ev.pc + 1) = rest := by rw [← List.drop_drop, hrest]; rfl
      rw [engineSteps_succ_of_next _ (hstep.trans (exec_toInstr_of_some rfl hs)), evalFrom_cons_of_some _ hs]
      exact ih (ev := { ev with stack := st, pc := ev.pc + 1 }) hdrop

/-- Settles O60: the run from index 0 on the empty stack; the digest register holds the integer the operand gave. -/
theorem sevalEqualsItsSmallSteps : Obligations.SevalEqualsItsSmallSteps := by
  intro s w rd ra rb rc re rz aA nA aB nB z cA cB hp hA hnA hB hnB hz hfitA hfitB hcA hcB
  have hrun := engineSteps_of_eval (ev := { cmds := cA ++ cB, pc := 0, stack := [], z := toW z, rd := rd })
    (rest := cA ++ cB) hp rfl
  rw [toW_toNat (State.rint_lt hz)] at hrun
  exact hrun.trans (exec_seval_of_parsed hA hnA hB hnB hz hfitA hfitB hcA hcB).symm

end Sys2Proof.Machine
end

section
/-!
The results of NOP, the register moves and the clears (O32; 45_system.md R460-R464).
-/

namespace Sys2Proof.Machine

variable {s : State} {ra : RegIdx}

theorem exec_rmov_of_written (rd : RegIdx) (h : (s.getR ra).tag ≠ .empty) :
    exec (.rmov rd ra) s = .next (s.setR rd (s.getR ra).tag (s.getR ra).val).finish := by
  rw [exec, execRmov, State.command_next, if_neg h, State.complete_ok]

theorem exec_rmov_of_empty (rd : RegIdx) (h : (s.getR ra).tag = .empty) :
    exec (.rmov rd ra) s = .next (s.fail .unwritten) := by
  rw [exec, execRmov, State.command_next, if_pos h, State.complete_error]

theorem exec_qmov_of_written (rd : RegIdx) (h : s.getQ ra ≠ .empty) :
    exec (.qmov rd ra) s = .next (s.setQ rd (s.getQ ra)).finish := by
  rw [exec, execQmov, State.command_next, if_neg h, State.complete_ok]

theorem exec_qmov_of_empty (rd : RegIdx) (h : s.getQ ra = .empty) :
    exec (.qmov rd ra) s = .next (s.fail .unwritten) := by
  rw [exec, execQmov, State.command_next, if_pos h, State.complete_error]

/-- Settles O32: a move ends on the side of its UNWRITTEN check that its source decides; NOP and the clears have no check,
so their completed state is `exec` unfolded. -/
theorem moveAndClearResults : Obligations.MoveAndClearResults := fun _ rd _ =>
  ⟨rfl, exec_rmov_of_written rd, exec_rmov_of_empty rd, exec_qmov_of_written rd, exec_qmov_of_empty rd, rfl, rfl⟩

end Sys2Proof.Machine
end

section
/-!
Completion and the fatal state (O18, O19; 60_exceptions.md R500-R505, R522): every pending word completes, a failing one
with its error in STATUS alone, and FATAL holds until a reset.
-/

namespace Sys2Proof.Machine

variable {s t : State}

/-! ### Completion (R500, R502, R504, R522, R620) -/

/-- A command word encodes no script command (R140, R160). -/
theorem isScript_of_decodeCmd {w : Word32} {i : Instr} (h : decodeCmd w = .ok i) : isScript i = false := by
  refine Bool.eq_false_iff.2 fun hi => ?_
  obtain ⟨c, rfl⟩ := exists_toInstr_of_isScript hi
  have hcode : encode c.toInstr = .cmd w := (encodeInvertsDecode (.cmd w) _ h).2
  rw [encode_toInstr] at hcode
  cases hcode

/-- Every instruction but the script commands is a command, which always answers a next state (R620). -/
theorem exec_next_of_not_isScript {i : Instr} (hi : isScript i = false) (s : State) : ∃ t, exec i s = .next t := by
  cases i with
  | push | opDup | opEqual | opEqualverify | opHash160 | opChecksig => cases hi
  | _ => exact ⟨_, State.command_next s _⟩

/-- The engine step completes the pending word: the report of an error on the state before it, or a command's writes and
the completion (R502, R504, R620). -/
theorem engineStep_completes {w : Word32} (hp : s.pending = some w) (he : s.eval = none) :
    ∃ t, s.engineStep = .next t ∧ ((∃ e, t = s.fail e) ∨ ∃ u, CommandWrites True s u ∧ t = u.finish) := by
  cases hd : decodeCmd w with
  | error e => exact ⟨_, engineStep_of_decode_error hd hp he, .inl ⟨_, rfl⟩⟩
  | ok i =>
    obtain ⟨t, ht⟩ := exec_next_of_not_isScript (isScript_of_decodeCmd hd) s
    refine ⟨t, by simp only [State.engineStep, hp, he, State.runPending, hd, ht], ?_⟩
    obtain hf | ⟨u, hu, hfin⟩ | ⟨ev, -, hev, -⟩ := exec_cases ht
    · exact .inl hf
    · exact .inr ⟨u, hu.mono fun _ => trivial, hfin⟩
    · rw [he] at hev; cases hev

/-- The fatal errors are the two mismatch codes (R505). -/
theorem isFatal_eq_decide (e : Err) : e.isFatal = decide (e = .fieldMismatch ∨ e = .curveMismatch) := by
  cases e <;> rfl

/-- Settles O18: a failure is `State.fail`, written out; a success is a command's writes, which leave ERR, ERRCODE and
FATAL alone. -/
theorem everyCommandCompletesPrecisely : Obligations.EveryCommandCompletesPrecisely := by
  intro s w hp he
  obtain ⟨t, ht, ⟨e, rfl⟩ | ⟨u, hu, rfl⟩⟩ := engineStep_completes hp he
  · exact ⟨_, ht, rfl, rfl, rfl, .inl ⟨e, by rw [← isFatal_eq_decide]; rfl⟩⟩
  · exact ⟨_, ht, rfl, rfl, rfl, .inr hu.status⟩

/-! ### The fatal state (R62, R63, R505) -/

/-- A fatal error keeps ERR at 1, and so no command is pending: its acceptance would have cleared ERR (R63, R505). -/
theorem statusOk_fatal (hs : s.StatusOk) (hf : s.fatal = true) : s.err = true ∧ s.pending = none := by
  obtain ⟨herr, hfatal, -, hbusy, -⟩ := hs
  have he : s.err = true := by
    cases hc : s.errcode with
    | none => simp [hfatal, hc] at hf
    | some e => simp [herr, hc]
  exact ⟨he, by simpa [State.busy, he] using hbusy⟩

/-- FATAL, ERR, ERRCODE and the pending command are the same (R62, R63). -/
def SameFault (s t : State) : Prop :=
  t.fatal = s.fatal ∧ t.err = s.err ∧ t.errcode = s.errcode ∧ t.pending = s.pending

/-- While FATAL = 1 a host write that is no soft reset clears no error and gets no command accepted (R62, R63, R505). -/
theorem sameFault_hostWrite (off : WordOff) (v : Word32) (hf : s.fatal = true)
    (hreset : ¬(placeOf off = .ctrl ∧ v.getLsbD 1 = true)) : SameFault s (s.hostWrite off v) := by
  obtain h | ⟨hp, hv, -⟩ | ⟨b, h⟩ | h | h | ⟨-, hf', -⟩ | ⟨i, x, h⟩ | ⟨a, bs, h⟩ := s.hostWrite_cases off v
  · simp [h, SameFault]
  · exact absurd ⟨hp, hv⟩ hreset
  · simp [h, SameFault]
  · simp [h, hf, SameFault]
  · simp [h, SameFault]
  · exact absurd hf (Bool.eq_false_iff.1 hf')
  · simp [h, SameFault]
  · simp [h, SameFault]

theorem sameFault_engineStep (hp : s.pending = none) (h : s.engineStep = .next t) : SameFault s t := by
  rw [engineStep_of_idle hp] at h
  cases h
  exact ⟨rfl, rfl, rfl, rfl⟩

/-- With FATAL = 1 and no command pending, every step but a reset keeps the error (R505). -/
theorem sameFault_step (hf : s.fatal = true) (hp : s.pending = none) (hreset : s.resetNext = false)
    (h : step s = .next t) : SameFault s t := by
  obtain he | ⟨e, es, hes, h⟩ := step_cases h
  · exact sameFault_engineStep hp he
  rw [State.resetNext, hes] at hreset
  obtain ⟨off, rfl⟩ | ⟨off, v, rfl, rfl⟩ | he | ⟨rfl, -⟩ := State.runEvent_cases h
  · exact ⟨rfl, rfl, rfl, rfl⟩
  · exact sameFault_hostWrite (s := { s with schedule := es }) off v hf (by simpa using hreset)
  · exact sameFault_engineStep (s := { s with schedule := es }) hp he
  · cases hreset

/-- Settles O19: a consistent STATUS with FATAL = 1 has ERR = 1 and no command pending, and the step keeps all of it. -/
theorem fatalIsSticky : Obligations.FatalIsSticky := by
  intro s t hs hf hreset h
  obtain ⟨herr, hp⟩ := statusOk_fatal hs hf
  obtain ⟨hf', herr', hcode', hp'⟩ := sameFault_step hf hp hreset h
  exact ⟨hf'.trans hf, herr'.trans herr, hcode', hp'.trans hp⟩

end Sys2Proof.Machine
end

section
/-!
What the step runs (O6), and the reset state (O16, O23; 00_scope.md R11, R12; 70_reset_and_hazards.md R600-R604, R620).
-/

namespace Sys2Proof.Machine

variable {s t : State}

/-! ### The engine's step on a pending word (R413, R620) -/

theorem engineStep_of_decode_ok {w : Word32} {i : Instr} (hp : s.pending = some w) (he : s.eval = none)
    (h : decodeCmd w = .ok i) : s.engineStep = exec i s := by
  simp only [State.engineStep, hp, he, State.runPending, h]

/-- Settles O6: an empty schedule and a granted step both come to the engine's step, in an evaluation and outside one. -/
theorem stepRunsDecodedInstruction : Obligations.StepRunsDecodedInstruction := by
  refine fun s w hp => ⟨fun i hsched he h => ?command, fun i es hsched he h => ?commandGranted,
    fun ev c hsched he h => ?script, fun ev c es hsched he h => ?scriptGranted⟩
  case command => rw [step_of_schedule_nil hsched, engineStep_of_decode_ok hp he h]
  case script => rw [step_of_schedule_nil hsched, engineStep_of_command hp he h]
  case commandGranted =>
    rw [step_of_schedule hsched]
    exact engineStep_of_decode_ok (s := { s with schedule := es }) hp he h
  case scriptGranted =>
    rw [step_of_schedule hsched]
    exact engineStep_of_command (s := { s with schedule := es }) hp he h

/-! ### The reset state (R600-R604) -/

/-- The state agrees with the reset state in all but BUF and the model's own fields. -/
def State.IsReset (s : State) : Prop :=
  s = { State.reset with
    buf := s.buf, params := s.params, schedule := s.schedule, rdata := s.rdata, draw := s.draw }

theorem isReset_reset : State.reset.IsReset := rfl

theorem isReset_powerOn (s : State) : s.powerOn.IsReset := rfl

theorem isReset_softReset (s : State) : s.softReset.IsReset := rfl

theorem State.IsReset.getR (h : s.IsReset) (i : RegIdx) : s.getR i = { tag := .empty, val := 0 } := by
  rw [h]
  exact Vector.getElem_replicate _

theorem State.IsReset.getQ (h : s.IsReset) (i : RegIdx) : s.getQ i = .empty := by
  rw [h]
  exact Vector.getElem_replicate _

/-- No flag of STATUS is set, and ERRCODE is NONE (R62). -/
theorem State.IsReset.statusWord (h : s.IsReset) : s.statusWord = 0 := by
  rw [h]
  rfl

theorem readAt_id (s : State) : s.readAt 0x000 = Config.idValue := rfl

/-- Settles O16: both resets leave a reset state, whose other registers are the fields of `State.reset`; a BUF byte
depends on the two fields that a soft reset keeps, the bytes written and the power-on number. -/
theorem resetValues : Obligations.ResetValues := by
  refine ⟨fun s t ht => ?values, fun s a => rfl, rfl, rfl, rfl, rfl⟩
  case values =>
    have h : t.IsReset := by
      obtain rfl | rfl | rfl := ht
      · exact isReset_reset
      · exact isReset_powerOn s
      · exact isReset_softReset s
    refine ⟨h.getR, h.getQ, ?_⟩
    rw [readAt_status, h.statusWord, readAt_id, h]
    simp [State.reset, State.irq, Config.idValue]

/-- Settles O23: the first of the invariants holds because nothing is written to BUF. -/
theorem resetMeetsInvariants : Obligations.ResetMeetsInvariants :=
  ⟨rfl, statusOk_reset, valuesOk_reset, pointsOnCurve_reset⟩

end Sys2Proof.Machine
end
